-- ==== Sys2Proof/Word.lean ====
section
/-! DEFINITION. The byte, the one width of every access of the core (20_memory.md R43), and its plainest arithmetic. -/

namespace Sys2Proof

/-- A byte: an unsigned 8-bit value, bits numbered 7 down to 0 (00_scope.md R11). -/
abbrev Byte := BitVec 8

/-- Which of the two byte arrays of R40. -/
inductive Buffer where
  | frame      -- FB, R24
  | response   -- RB, R25
  deriving DecidableEq, Repr

end Sys2Proof
end

