-- ==== Sys2Proof/Config.lean ====
section
/-! DEFINITION. The implementation parameters of 00_scope.md section 3, each a named constant (D25), and the free values
of the model. -/

namespace Sys2Proof.Config

/-- `CAP_FB`, the frame buffer's capacity in bytes (R4). -/
@[simp] abbrev capFB : Nat := 256

/-- `CAP_RB`, the response buffer's capacity in bytes (R4). -/
@[simp] abbrev capRB : Nat := 256

/-- `RESP_CAP`, the capacity offered to the dispatcher: one byte is kept for the checksum (R4). -/
@[simp] abbrev respCap : Nat := capRB - 1

/-- `MIN_FRAME`: a frame is delivered only when the cursor exceeds 1 (R8). -/
@[simp] abbrev minFrame : Nat := 2

/-- `END`, the boundary marker (R5). -/
@[simp] abbrev endByte : Byte := 0xC0#8

/-- `ESC`, the escape marker (R5). -/
@[simp] abbrev escByte : Byte := 0xDB#8

/-- `ESC_END`, the escaped-boundary code (R5). -/
@[simp] abbrev escEndByte : Byte := 0xDC#8

/-- `ESC_ESC`, the escaped-escape code (R5). -/
@[simp] abbrev escEscByte : Byte := 0xDD#8

/-- `CLEAR`, the resync code (R5). -/
@[simp] abbrev clearByte : Byte := 0xDE#8

/-- `POLY`, the checksum polynomial (R6). -/
@[simp] abbrev poly : Byte := 0x07#8

/-- `INIT`, the checksum's initial value (R6). -/
@[simp] abbrev init : Byte := 0x00#8

/-- `ERR_PREFIX`, the first byte of an error payload (R7). -/
@[simp] abbrev errPrefix : Byte := 0xFF#8

/-- `ERR_CHECKSUM`, "checksum mismatch" (R7). -/
@[simp] abbrev errChecksum : Byte := 0x01#8

/-- `ERR_DISPATCH`, "dispatch failure" (R7). -/
@[simp] abbrev errDispatch : Byte := 0x02#8

/-- FREE VALUE. What index `i` of a buffer reads as while nothing has written it since the power-on or reset numbered
`epoch` (R31: "unspecified (any value)", D8, K8). It has no body, so no proof knows a value of it. DESIGN CHOICE, safe:
assumption log 3. -/
opaque unspecifiedByte : (epoch : Nat) → Buffer → (i : Nat) → Byte

end Sys2Proof.Config
end

