-- ==== Sys2Proof/Syntax.lean ====
section
/-! DEFINITION. The operations of the core (30_encoding.md R82, spec/opcode_table.json), one constructor per row, with the
operands each rule's template names. -/

namespace Sys2Proof

/-- The decoder state register's values (R21: "a three-constructor enumeration, so that the unused code does not exist"). -/
inductive DState where
  | idle
  | receiving
  | escaped
  deriving DecidableEq, Repr

/-- The dispatcher's status (R54). -/
inductive Status where
  | success
  | failure
  deriving DecidableEq, Repr

/-- The two error codes the core can send (R7, R177); "a model has no constructor" for any other (K2). -/
inductive ErrorCode where
  | checksumMismatch   -- 0x01
  | dispatchFailure    -- 0x02
  deriving DecidableEq, Repr

/-- The operations. A fixed byte (the `0xC0` of IDLE.END) is no operand; the buffer of ENC.SEND is "always RB in this
core" (R130) and is not carried. -/
inductive Instr where
  | idleEnd                          -- IDLE.END, R101
  | idleOther (b : Byte)             -- IDLE.OTHER, R102
  | rxEnd                            -- RX.END, R103
  | rxEsc                            -- RX.ESC, R104
  | rxData (b : Byte)                -- RX.DATA, R105
  | rxOverflow (b : Byte)            -- RX.OVERFLOW, R106
  | escEscEnd                        -- ESC.ESC_END, R107
  | escEscEsc                        -- ESC.ESC_ESC, R108
  | escOther (b : Byte)              -- ESC.OTHER, R109
  | decDeliver (len : Nat)           -- DEC.DELIVER, R110
  | encSend (n : Nat)                -- ENC.SEND, R130
  | encResync                        -- ENC.RESYNC, R131
  | encOpen                          -- ENC.OPEN, R132
  | encByteEnd                       -- ENC.BYTE_END, R133
  | encByteEsc                       -- ENC.BYTE_ESC, R134
  | encByteLit (c : Byte)            -- ENC.BYTE_LIT, R135
  | encClose                         -- ENC.CLOSE, R136
  | crcClear                         -- CRC.CLEAR, R150
  | crcStep (b : Byte)               -- CRC.STEP, R151
  | procFrame (len : Nat)            -- PROC.FRAME, R170
  | procSplit (len : Nat)            -- PROC.SPLIT, R171
  | procVerify                       -- PROC.VERIFY, R172
  | procErrChecksum                  -- PROC.ERR_CHECKSUM, R173
  | procDispatch                     -- PROC.DISPATCH, R174
  | procRespond                      -- PROC.RESPOND, R175
  | procErrDispatch                  -- PROC.ERR_DISPATCH, R176
  | procSendError (code : ErrorCode) -- PROC.SEND_ERROR, R177
  deriving DecidableEq, Repr

end Sys2Proof
end

