-- ==== Sys2Proof/WellFormed.lean ====
section
/-! DEFINITION. Which operand values each operation admits: the "Operands" lines of the rules' templates. -/

namespace Sys2Proof

open Config

/-- A delivered frame's length: `2 <= len <= 256` (R8, R110, R170). -/
def frameLenOk (len : Nat) : Bool := decide (minFrame ≤ len) && decide (len ≤ capFB)

/-- The operands are those the operation's rule admits. The operations without an operand are always well formed. -/
def Instr.wf : Instr → Bool
  | .idleEnd => true
  | .idleOther b => b != endByte                       -- R102: any byte but the boundary marker
  | .rxEnd => true
  | .rxEsc => true
  | .rxData b => b != endByte && b != escByte          -- R105: any value but 0xC0 and 0xDB
  | .rxOverflow b => b != endByte && b != escByte      -- R106
  | .escEscEnd => true
  | .escEscEsc => true
  | .escOther b => b != escEndByte && b != escEscByte  -- R109: any value but 0xDC and 0xDD
  | .decDeliver len => frameLenOk len                  -- R110
  | .encSend n => decide (n ≤ capRB)                   -- R130: 0 <= n <= 256
  | .encResync => true
  | .encOpen => true
  | .encByteEnd => true
  | .encByteEsc => true
  | .encByteLit c => c != endByte && c != escByte      -- R135: any value but 0xC0 and 0xDB
  | .encClose => true
  | .crcClear => true
  | .crcStep _ => true
  | .procFrame len => frameLenOk len                   -- R170
  | .procSplit len => frameLenOk len                   -- R171 within R170
  | .procVerify => true
  | .procErrChecksum => true
  | .procDispatch => true
  | .procRespond => true
  | .procErrDispatch => true
  | .procSendError _ => true

end Sys2Proof
end

