-- ==== Sys2Proof/Decode.lean ====
section
/-! DEFINITION. What selects an operation (30_encoding.md R70, R82): an input byte read with the decoder state, a payload
byte, or an internal event. The decoder is total; the encoder gives the selection of a well-formed operation. -/

namespace Sys2Proof

open Config

/-! ## The decoder state's binary code (R21, D19) -/

/-- The 2-bit code of `dstate`. -/
def DState.code : DState → BitVec 2
  | .idle => 0b00
  | .receiving => 0b01
  | .escaped => 0b10

/-- The state a 2-bit code stands for; `0b11` stands for none (R21). -/
def DState.ofCode (c : BitVec 2) : Option DState :=
  if c = 0b00 then some .idle else if c = 0b01 then some .receiving else if c = 0b10 then some .escaped else none

/-! ## Selections -/

/-- The internal events of the operation map (the `event` column of the opcode table), with the values they carry. -/
inductive Event where
  | closedAbove1 (len : Nat)     -- RX.END with cursor > 1: selects DEC.DELIVER
  | sendCall (n : Nat)           -- PROC calls send(RB, n): ENC.SEND
  | sendFirst                    -- first step of ENC.SEND: ENC.RESYNC
  | sendSecond                   -- second step of ENC.SEND: ENC.OPEN
  | sendLast                     -- last step of ENC.SEND: ENC.CLOSE
  | checksumStart                -- start of a checksum computation: CRC.CLEAR
  | checksumByte (b : Byte)      -- one input byte of a checksum computation: CRC.STEP
  | delivery (len : Nat)         -- DEC.DELIVER(len): PROC.FRAME
  | frameFirst (len : Nat)       -- first step of PROC.FRAME: PROC.SPLIT
  | frameSecond                  -- second step of PROC.FRAME: PROC.VERIFY
  | matchIs (m : Bool)           -- match = false: PROC.ERR_CHECKSUM; match = true: PROC.DISPATCH
  | statusIs (st : Status)       -- Success: PROC.RESPOND; Failure: PROC.ERR_DISPATCH
  | errorWith (code : Byte)      -- an error with its code byte: PROC.SEND_ERROR
  deriving DecidableEq, Repr

/-- What selects an operation (R82's second column). -/
inductive Selector where
  | inputByte (d : DState) (cursor : Nat) (b : Byte)
  | payloadByte (c : Byte)
  | event (e : Event)
  deriving DecidableEq, Repr

/-- Why a selection names no operation. -/
inductive DecodeError where
  | frameLength (len : Nat)      -- a delivery outside 2..256 (R110, R170)
  | sendLength (n : Nat)         -- a send of more than 256 bytes (R130)
  | reservedErrorCode (c : Byte) -- an error code other than 0x01 and 0x02 (R78, K2)
  deriving DecidableEq, Repr

/-- The operation of one input byte: R100's case distinction, whole. Every byte in every state selects one (R79). -/
def decodeInput (d : DState) (cursor : Nat) (b : Byte) : Instr :=
  match d with
  | .idle => if b = endByte then .idleEnd else .idleOther b
  | .receiving =>
    if b = endByte then .rxEnd
    else if b = escByte then .rxEsc
    else if cursor < capFB then .rxData b
    else .rxOverflow b
  | .escaped =>
    if b = escEndByte then .escEscEnd
    else if b = escEscByte then .escEscEsc
    else .escOther b

/-- The operation of one payload byte: R130's case distinction (R72). -/
def decodePayload (c : Byte) : Instr :=
  if c = endByte then .encByteEnd else if c = escByte then .encByteEsc else .encByteLit c

/-- The operation of an internal event (R82), or the reason there is none. -/
def decodeEvent : Event → Except DecodeError Instr
  | .closedAbove1 len => if frameLenOk len then .ok (.decDeliver len) else .error (.frameLength len)
  | .sendCall n => if n ≤ capRB then .ok (.encSend n) else .error (.sendLength n)
  | .sendFirst => .ok .encResync
  | .sendSecond => .ok .encOpen
  | .sendLast => .ok .encClose
  | .checksumStart => .ok .crcClear
  | .checksumByte b => .ok (.crcStep b)
  | .delivery len => if frameLenOk len then .ok (.procFrame len) else .error (.frameLength len)
  | .frameFirst len => if frameLenOk len then .ok (.procSplit len) else .error (.frameLength len)
  | .frameSecond => .ok .procVerify
  | .matchIs m => .ok (if m then .procDispatch else .procErrChecksum)
  | .statusIs st =>
    match st with
    | .success => .ok .procRespond
    | .failure => .ok .procErrDispatch
  | .errorWith c =>
    if c = errChecksum then .ok (.procSendError .checksumMismatch)
    else if c = errDispatch then .ok (.procSendError .dispatchFailure)
    else .error (.reservedErrorCode c)

/-- The decoder, total on every selection. -/
def decode : Selector → Except DecodeError Instr
  | .inputByte d cursor b => .ok (decodeInput d cursor b)
  | .payloadByte c => .ok (decodePayload c)
  | .event e => decodeEvent e

/-! ## The encoder -/

/-- The wire value of an error code (R7). -/
def ErrorCode.toByte : ErrorCode → Byte
  | .checksumMismatch => errChecksum
  | .dispatchFailure => errDispatch

/-- The selection of an operation, from the same table. Where a row leaves the cursor open, the encoder gives 0; RX.OVERFLOW
gives 256, the one value its row admits (log 17). -/
def encode : Instr → Selector
  | .idleEnd => .inputByte .idle 0 endByte
  | .idleOther b => .inputByte .idle 0 b
  | .rxEnd => .inputByte .receiving 0 endByte
  | .rxEsc => .inputByte .receiving 0 escByte
  | .rxData b => .inputByte .receiving 0 b
  | .rxOverflow b => .inputByte .receiving capFB b
  | .escEscEnd => .inputByte .escaped 0 escEndByte
  | .escEscEsc => .inputByte .escaped 0 escEscByte
  | .escOther b => .inputByte .escaped 0 b
  | .decDeliver len => .event (.closedAbove1 len)
  | .encSend n => .event (.sendCall n)
  | .encResync => .event .sendFirst
  | .encOpen => .event .sendSecond
  | .encByteEnd => .payloadByte endByte
  | .encByteEsc => .payloadByte escByte
  | .encByteLit c => .payloadByte c
  | .encClose => .event .sendLast
  | .crcClear => .event .checksumStart
  | .crcStep b => .event (.checksumByte b)
  | .procFrame len => .event (.delivery len)
  | .procSplit len => .event (.frameFirst len)
  | .procVerify => .event .frameSecond
  | .procErrChecksum => .event (.matchIs false)
  | .procDispatch => .event (.matchIs true)
  | .procRespond => .event (.statusIs .success)
  | .procErrDispatch => .event (.statusIs .failure)
  | .procSendError code => .event (.errorWith code.toByte)

/-! ## The opcode table's byte rows (spec/opcode_table.json, R82) -/

/-- One `input_byte` row: selected when `(b AND mask) == pattern`, the state matches, no excluded byte equals `b`, and
the row's condition on the cursor holds (R82's last paragraph). -/
structure InputRow where
  mnemonic : String
  pattern : Byte
  mask : Byte
  state : DState
  excludes : List Byte
  room : Option Bool   -- `some true`: cursor < 256; `some false`: cursor = 256; `none`: any cursor
  deriving DecidableEq, Repr

/-- The nine `input_byte` rows, as the table gives them. -/
def inputRows : List InputRow := [
  ⟨"IDLE.END", 0xC0#8, 0xFF#8, .idle, [], none⟩,
  ⟨"IDLE.OTHER", 0x00#8, 0x00#8, .idle, [0xC0#8], none⟩,
  ⟨"RX.END", 0xC0#8, 0xFF#8, .receiving, [], none⟩,
  ⟨"RX.ESC", 0xDB#8, 0xFF#8, .receiving, [], none⟩,
  ⟨"RX.DATA", 0x00#8, 0x00#8, .receiving, [0xC0#8, 0xDB#8], some true⟩,
  ⟨"RX.OVERFLOW", 0x00#8, 0x00#8, .receiving, [0xC0#8, 0xDB#8], some false⟩,
  ⟨"ESC.ESC_END", 0xDC#8, 0xFF#8, .escaped, [], none⟩,
  ⟨"ESC.ESC_ESC", 0xDD#8, 0xFF#8, .escaped, [], none⟩,
  ⟨"ESC.OTHER", 0x00#8, 0x00#8, .escaped, [0xDC#8, 0xDD#8], none⟩ ]

/-- Whether a row is selected. -/
def InputRow.selects (r : InputRow) (d : DState) (cursor : Nat) (b : Byte) : Bool :=
  (b &&& r.mask) == r.pattern && r.state == d && !(r.excludes.contains b) &&
    (match r.room with
     | none => true
     | some true => decide (cursor < capFB)
     | some false => decide (cursor = capFB))

/-- The mnemonic of a decoder operation (the others are selected by no input byte). -/
def inputMnemonic : Instr → Option String
  | .idleEnd => some "IDLE.END"
  | .idleOther _ => some "IDLE.OTHER"
  | .rxEnd => some "RX.END"
  | .rxEsc => some "RX.ESC"
  | .rxData _ => some "RX.DATA"
  | .rxOverflow _ => some "RX.OVERFLOW"
  | .escEscEnd => some "ESC.ESC_END"
  | .escEscEsc => some "ESC.ESC_ESC"
  | .escOther _ => some "ESC.OTHER"
  | _ => none

/-! ## The host's word -/

/-- The decoder state under which a bare byte is read as a table word: the state of the row that fixes all its bits, the
first such row of the table; `Idle` for a byte no row fixes (log 11). -/
def tableState (b : Byte) : DState :=
  if b = endByte then .idle
  else if b = escByte then .receiving
  else if b = escEndByte then .escaped
  else if b = escEscByte then .escaped
  else .idle

/-- The operation the decoder reads from a table word: one byte, read under `tableState`. -/
def decodeTableWord (nbits w : Nat) : Option Instr :=
  if nbits = 8 ∧ w < 256 then
    let b : Byte := BitVec.ofNat 8 w
    match decode (.inputByte (tableState b) 0 b) with
    | .ok i => some i
    | .error _ => none
  else none

end Sys2Proof
end

