-- ==== Sys2Proof/Machine/State.lean ====
section
/-! DEFINITION. The state of the core and of the interfaces it reads and writes, as plain data, and its value after reset. -/

namespace Sys2Proof.Machine

/-- A buffer's bytes: (index, byte) pairs with strictly rising indexes; an index not listed has not been written since the
last reset (log 3). -/
abbrev Memory := List Host.Cell

/-- What the control path still has to do once the present wait is over (R48, R110, R170, R174; log 1). -/
inductive Pending where
  | awaitReply       -- R174: the dispatcher call has not returned
  | branchOnStatus   -- R170: `if status == Success then PROC.RESPOND else PROC.ERR_DISPATCH`
  | closeFrame       -- R103: `cursor <- 0; dstate <- Idle`
  deriving DecidableEq, Repr

/-- One call of the dispatcher as it leaves the core (R54); the response buffer itself is `State.rb`. -/
structure Call where
  request : List Byte
  requestLen : Nat
  capacity : Nat
  deriving DecidableEq, Repr

/-- What the dispatcher does before it returns and what it returns (R54). The bytes it writes may be anything, also outside
its duties (R55): `writes` are those to the response buffer, `frameWrites` those to the frame buffer. -/
structure Reply where
  status : Status
  responseLen : Nat
  writes : List Host.Cell
  frameWrites : List Host.Cell
  deriving DecidableEq, Repr

/-- What the integrator does about reset before a coming step (R230, D21; log 13). -/
inductive ResetMove where
  | keepRunning
  | reset            -- reset before the step
  | resetAfterTake   -- reset just after the core has taken the next input byte, before that byte has any other effect
  deriving DecidableEq, Repr

/-- Everything the spec gives the core (10_state.md R20), the transient values (R27), the control of a Feed that waits, and
the interfaces' data. Plain data: no field is a function. -/
structure State where
  /-- the decoder state register (R21) -/
  dstate : DState
  /-- the frame buffer's write cursor, 0..256 (R23) -/
  cursor : Nat
  /-- FB (R24) -/
  fb : Memory
  /-- RB (R25) -/
  rb : Memory
  /-- the checksum accumulator (R26) -/
  acc : Byte
  /-- inside the processing of one input byte (R28) -/
  busy : Bool
  /-- `len` of the frame being processed; its `data` is FB[0 .. len-1) (R27, R171) -/
  frameLen : Nat
  /-- the received checksum byte (R27, R171) -/
  received : Byte
  /-- the computed checksum (R172) -/
  expected : Byte
  /-- `match` (R27, R172) -/
  matched : Bool
  /-- the dispatcher's `status` (R27, R174) -/
  status : Status
  /-- the dispatcher's `response_len` (R27, R174) -/
  responseLen : Nat
  /-- the rest of the Feed in progress, next thing first (log 1) -/
  ctl : List Pending
  /-- bytes handed to `Emit` that the sink has not taken, oldest first (R52, log 10) -/
  emitting : List Byte
  /-- the answers the transport source will give to the coming polls (R50); none offered once the list is used up -/
  input : List (Option Byte)
  /-- the output byte stream: every byte the sink has taken, oldest first (R40, R52) -/
  out : List Byte
  /-- the dispatcher calls made, oldest first (R54) -/
  calls : List Call
  /-- what the dispatcher gives back at each coming step of waiting: nothing yet, or a reply (R54); never again once used up -/
  replies : List (Option Reply)
  /-- whether the sink takes the byte offered, at each coming attempt (R52) -/
  sink : List Bool
  /-- what the sink does once `sink` is used up: take every byte at once, or never another (R211) -/
  sinkOpen : Bool
  /-- what happens about reset before each coming step (D21); nothing once the list is used up -/
  resets : List ResetMove
  /-- the MODEL's own counter: which power-on or reset the unspecified buffer bytes belong to (log 3) -/
  epoch : Nat
  deriving DecidableEq, Repr

/-- Why the machine stops. The first three are the closed list of R210. -/
inductive Fault where
  /-- The dispatcher answered Success with `response_len > 255` (PROC.RESPOND, R175), or wrote RB[255], beyond it, or FB
  (the return of the call, R174, R210). SAFE: the spec gives no effect (K4, D6). -/
  | dispatchContractViolation
  /-- ENC.SEND with `n > 256` (R130, R210). SAFE: no effect is given (K6, D13); unreachable. -/
  | sendLengthExceeded
  /-- PROC.FRAME with `len < 2` or `len > 256` (R170, R210). SAFE: no effect is given (K7, D28); unreachable. -/
  | frameLengthOutOfRange
  /-- The model's own: an access to an index outside 0..255 of a buffer (R40), raised by RX.DATA, PROC.SPLIT, PROC.VERIFY
  and PROC.DISPATCH on operands or states no run reaches (R47). SAFE: no such byte exists (log 8). -/
  | bufferIndexOutOfRange
  deriving DecidableEq, Repr

/-- Why an instruction has no meaning. -/
inductive Refusal where
  /-- Raised by `exec` for an operation without a meaning yet; none is left. SAFE: it stops. -/
  | notModelled (mnemonic : String)
  deriving DecidableEq, Repr

/-- The core right after reset (R31, R230): `Idle`, cursor 0, accumulator 0x00, not busy, both buffers unspecified. The
transient values exist only while PROC runs (R27) and are given the values of log 4; the interfaces offer nothing and the
sink takes every byte at once (log 2). -/
def State.reset : State where
  dstate := .idle
  cursor := 0
  fb := []
  rb := []
  acc := 0x00#8
  busy := false
  frameLen := 0
  received := 0x00#8
  expected := 0x00#8
  matched := false
  status := .failure
  responseLen := 0
  ctl := []
  emitting := []
  input := []
  out := []
  calls := []
  replies := []
  sink := []
  sinkOpen := true
  resets := []
  epoch := 0

end Sys2Proof.Machine
end

