-- ==== Sys2Proof/Machine/Ops.lean ====
section
/-! DEFINITION. The named operations over the buffers, the registers and the interfaces. Every meaning is written over these. -/

namespace Sys2Proof.Machine

open Config

/-- The outcome of one operation. -/
abbrev Result := Host.Outcome State Fault Refusal

/-- "Then": go on from a next state; a fault or a refusal ends it. -/
def andThen (o : Result) (f : State → Result) : Result :=
  match o with
  | .next s => f s
  | .fault r => .fault r
  | .refused r => .refused r

/-- `raise Fault(reason)` (R210): the run ends here and nothing further is emitted (log 7). -/
def raise (r : Fault) : Result := .fault r

/-! ## Buffers -/

/-- The byte written last at an index, if one has been written. -/
def Memory.read? : Memory → Nat → Option Byte
  | [], _ => none
  | (b, v) :: rest, a => if a = b then some v else Memory.read? rest a

/-- Write one byte, keeping the indexes strictly rising. -/
def Memory.write : Memory → Nat → Byte → Memory
  | [], a, v => [(a, v)]
  | (b, w) :: rest, a, v =>
    if a < b then (a, v) :: (b, w) :: rest
    else if a = b then (a, v) :: rest
    else (b, w) :: Memory.write rest a v

/-- Strictly rising indexes from `lo` on, all below `cap`. -/
def Memory.wfFrom (cap : Nat) : Nat → Memory → Bool
  | _, [] => true
  | lo, (a, _) :: rest => decide (lo ≤ a) && decide (a < cap) && Memory.wfFrom cap (a + 1) rest

/-- The canonical form of a buffer of `cap` bytes: strictly rising indexes inside the buffer. An unlisted index reads as
"not written", which no entry does. -/
def Memory.wf (cap : Nat) (m : Memory) : Bool := Memory.wfFrom cap 0 m

/-- `FB[i]`: the byte written last, or the free value of a byte nothing has written (log 3). -/
def State.fbByte (s : State) (i : Nat) : Byte := (s.fb.read? i).getD (unspecifiedByte s.epoch .frame i)

/-- `RB[i]`. -/
def State.rbByte (s : State) (i : Nat) : Byte := (s.rb.read? i).getD (unspecifiedByte s.epoch .response i)

/-- `FB[0 .. n)`, in index order (R44). -/
def State.fbRange (s : State) (n : Nat) : List Byte := (List.range n).map s.fbByte

/-- `RB[0 .. n)`, in index order (R44). -/
def State.rbRange (s : State) (n : Nat) : List Byte := (List.range n).map s.rbByte

/-- `FB[i] <- v`. -/
def writeFB (i : Nat) (v : Byte) (s : State) : State := { s with fb := s.fb.write i v }

/-- `RB[i] <- v`. -/
def writeRB (i : Nat) (v : Byte) (s : State) : State := { s with rb := s.rb.write i v }

/-! ## The decoder's registers -/

/-- A buffer reset: `cursor <- 0`; the bytes of FB stay (R45, D9). -/
def resetBuffer (s : State) : State := { s with cursor := 0 }

/-- `dstate <- d`. -/
def setDState (d : DState) (s : State) : State := { s with dstate := d }

/-- `FB[cursor] <- b; cursor <- cursor + 1` (R105, R107, R108). -/
def appendByte (b : Byte) (s : State) : State := { writeFB s.cursor b s with cursor := s.cursor + 1 }

/-- `cursor <- 0; dstate <- Idle`, the end of RX.END (R103). -/
def closeFrame (s : State) : State := setDState .idle (resetBuffer s)

/-- The common body of R107 and R108: append when there is room, else reset the buffer; `dstate <- Receiving` either way. -/
def resolveEscape (b : Byte) (s : State) : State :=
  setDState .receiving (if s.cursor < capFB then appendByte b s else resetBuffer s)

/-! ## The checksum accumulator -/

/-- One iteration of R151: left shift, and XOR with the polynomial when the bit shifted out was 1. -/
def crcBit (t : Byte) : Byte := if t.msb then (t <<< 1) ^^^ poly else t <<< 1

/-- `k` iterations. -/
def crcBits : Nat → Byte → Byte
  | 0, t => t
  | k + 1, t => crcBits k (crcBit t)

/-- The accumulator after absorbing `b`: XOR, then eight iterations (R151). -/
def crcAbsorb (acc b : Byte) : Byte := crcBits 8 (acc ^^^ b)

/-- `acc <- 0x00` (R150). -/
def clearAcc (s : State) : State := { s with acc := init }

/-- `acc` absorbs one byte (R151). -/
def stepAcc (b : Byte) (s : State) : State := { s with acc := crcAbsorb s.acc b }

/-- A checksum computation over a byte sequence (R152): CRC.CLEAR, then CRC.STEP for each byte in order; the result is
`acc` as it stands. -/
def runChecksum (x : List Byte) (s : State) : State := x.foldl (fun t b => stepAcc b t) (clearAcc s)

/-! ## Output and the control path -/

/-- `Emit` each byte in turn, after every byte emitted before (R52): they wait in `emitting` until the sink takes them. -/
def emit (bs : List Byte) (s : State) : State := { s with emitting := s.emitting ++ bs }

/-- What is left to do after the present wait. -/
def push (p : Pending) (s : State) : State := { s with ctl := p :: s.ctl }

/-- A dispatcher call leaves the core (R54). -/
def logCall (c : Call) (s : State) : State := { s with calls := s.calls ++ [c] }

/-! ## Reset (R230) -/

/-- Reset at any time: every piece of state at its value of R31, the Feed in progress abandoned with its dispatcher call
and the bytes the sink has not taken. Bytes the sink took, calls made and the environment's own data stay; the buffers'
bytes are unspecified anew. -/
def resetCore (s : State) : State :=
  { State.reset with
    input := s.input, out := s.out, calls := s.calls, replies := s.replies, sink := s.sink, sinkOpen := s.sinkOpen,
    resets := s.resets, epoch := s.epoch + 1 }

end Sys2Proof.Machine
end

