-- ==== Sys2Proof/Machine/Operands.lean ====
section
/-! DEFINITION. The operand forms: the views of a frame, the payload byte classes, the byte-stream notation of R81, and the
dispatcher's reply read as an operand. -/

namespace Sys2Proof.Machine

open Config

/-! ## Views of the frame (R171, R174) -/

/-- `data = FB[0 .. len-1)`, the application bytes of the frame being processed; empty when `len` is 0. -/
def frameData (s : State) : List Byte := s.fbRange (s.frameLen - 1)

/-- The call PROC.DISPATCH makes: the request excludes the checksum byte, the capacity is 255 (R54, R174). -/
def frameCall (s : State) : Call := ⟨frameData s, s.frameLen - 1, respCap⟩

/-! ## The dispatcher's reply -/

/-- The reply keeps the duties that concern what it writes: RB below 255 only, FB not at all (R55). -/
def Reply.writesInContract (r : Reply) : Bool := r.writes.all (fun c => decide (c.1 < respCap)) && r.frameWrites.isEmpty

/-- The dispatcher's writes to RB, in order. -/
def applyWrites (ws : List Host.Cell) (s : State) : State := ws.foldl (fun t c => writeRB c.1 c.2 t) s

/-- `(status, response_len) <- Dispatch(...)`: the writes, then the two returned values (R174). -/
def acceptReply (r : Reply) (s : State) : State :=
  { applyWrites r.writes s with status := r.status, responseLen := r.responseLen }

/-! ## Byte-stream notation (R72, R81) -/

/-- The escape form of one payload byte (R72). -/
def escapeOf (c : Byte) : List Byte :=
  if c = endByte then [escByte, escEndByte] else if c = escByte then [escByte, escEscByte] else [c]

/-- `esc(p)`. -/
def esc (p : List Byte) : List Byte := p.flatMap escapeOf

/-- `UNIT(p) = ESC CLEAR END esc(p) END` (R74, R81). -/
def unit (p : List Byte) : List Byte := [escByte, clearByte, endByte] ++ esc p ++ [endByte]

/-- `crc8(x)` as a function of the bytes alone (R152). -/
def crc8 (x : List Byte) : Byte := x.foldl crcAbsorb init

/-- `FRAME(a)` (R81). -/
def frameOf (a : List Byte) : List Byte := [endByte] ++ esc (a ++ [crc8 a]) ++ [endByte]

/-- `REQ(a)` (R81). -/
def reqOf (a : List Byte) : List Byte := unit (a ++ [crc8 a])

/-- The payload of an error frame: prefix, code, checksum over the two (R76). -/
def errorPayload (code : ErrorCode) : List Byte := [errPrefix, code.toByte, crc8 [errPrefix, code.toByte]]

/-- The two escape pairs, read back (R73): the payload a de-escaping of `bs` yields, `none` at an invalid or unfinished pair
or a boundary marker. -/
def unescape : List Byte → Option (List Byte)
  | [] => some []
  | [b] => if b = endByte ∨ b = escByte then none else some [b]
  | b :: c :: rest =>
    if b = endByte then none
    else if b = escByte then
      if c = escEndByte then (unescape rest).map (endByte :: ·)
      else if c = escEscByte then (unescape rest).map (escByte :: ·)
      else none
    else (unescape (c :: rest)).map (b :: ·)

end Sys2Proof.Machine
end

