-- ==== Sys2Proof/Machine/Flags.lean ====
section
/-! DEFINITION. The core's only flags, the transient `match` and `status` of R27: how each is computed and tested. -/

namespace Sys2Proof.Machine

/-- `match <- (expected == received)` (R172). -/
def matchFlag (expected received : Byte) : Bool := expected == received

/-- The operation `status` selects (R170's last line). -/
def statusOp : Status → Instr
  | .success => .procRespond
  | .failure => .procErrDispatch

end Sys2Proof.Machine
end

