-- ==== Sys2Proof/Machine/Checksum.lean ====
section
/-! DEFINITION. CRC: the meanings of 42_checksum.md's two operations. -/

namespace Sys2Proof.Machine

/-- CRC.CLEAR (R150): `acc <- 0x00`. -/
def execCrcClear (s : State) : Result := .next (clearAcc s)

/-- CRC.STEP(b) (R151). -/
def execCrcStep (b : Byte) (s : State) : Result := .next (stepAcc b s)

end Sys2Proof.Machine
end

