-- ==== Sys2Proof/Machine/Encoder.lean ====
section
/-! DEFINITION. ENC: the meanings of 41_encoder.md's operations. They write the output stream only (R138). -/

namespace Sys2Proof.Machine

open Config

/-- ENC.RESYNC (R131): `Emit(0xDB); Emit(0xDE)`. -/
def execEncResync (s : State) : Result := .next (emit [escByte, clearByte] s)

/-- ENC.OPEN (R132): `Emit(0xC0)`. -/
def execEncOpen (s : State) : Result := .next (emit [endByte] s)

/-- ENC.BYTE_END (R133): `Emit(0xDB); Emit(0xDC)`. -/
def execEncByteEnd (s : State) : Result := .next (emit [escByte, escEndByte] s)

/-- ENC.BYTE_ESC (R134): `Emit(0xDB); Emit(0xDD)`. -/
def execEncByteEsc (s : State) : Result := .next (emit [escByte, escEscByte] s)

/-- ENC.BYTE_LIT (R135): `Emit(c)`. -/
def execEncByteLit (c : Byte) (s : State) : Result := .next (emit [c] s)

/-- ENC.CLOSE (R136): `Emit(0xC0)`. -/
def execEncClose (s : State) : Result := .next (emit [endByte] s)

/-- One turn of R130's loop: the operation of the payload byte's class. -/
def sendByte (c : Byte) (s : State) : Result :=
  if c = endByte then execEncByteEnd s else if c = escByte then execEncByteEsc s else execEncByteLit c s

/-- R130's loop, in index order. -/
def sendBytes : List Byte → State → Result
  | [], s => .next s
  | c :: cs, s => andThen (sendByte c s) (sendBytes cs)

/-- ENC.SEND(RB, n) (R130). The payload is read when the send starts; no step of it writes RB (log 20). -/
def execEncSend (n : Nat) (s : State) : Result :=
  if n > capRB then raise .sendLengthExceeded
  else andThen (execEncResync s) fun s1 => andThen (execEncOpen s1) fun s2 =>
    andThen (sendBytes (s.rbRange n) s2) execEncClose

end Sys2Proof.Machine
end

