-- ==== Sys2Proof/Machine/Processor.lean ====
section
/-! DEFINITION. PROC: the meanings of 43_processor.md's operations, each its rule's pseudocode. -/

namespace Sys2Proof.Machine

open Config

/-- PROC.SEND_ERROR(code) (R177): the error payload staged in RB[0 .. 3), then ENC.SEND(RB, 3). -/
def execProcSendError (code : ErrorCode) (s : State) : Result :=
  let s1 := writeRB 1 code.toByte (writeRB 0 errPrefix s)
  let s2 := runChecksum (s1.rbRange 2) s1
  execEncSend 3 (writeRB 2 s2.acc s2)

/-- PROC.ERR_CHECKSUM (R173): `PROC.SEND_ERROR(0x01)`; the dispatcher is not called. -/
def execProcErrChecksum (s : State) : Result := execProcSendError .checksumMismatch s

/-- PROC.ERR_DISPATCH (R176): `PROC.SEND_ERROR(0x02)`; `response_len` is ignored (D27). -/
def execProcErrDispatch (s : State) : Result := execProcSendError .dispatchFailure s

/-- PROC.SPLIT(len) (R171): fixes the view `data` = FB[0 .. len-1) and reads `received` = FB[len-1]. -/
def execProcSplit (len : Nat) (s : State) : Result :=
  if 1 ≤ len ∧ len ≤ capFB then .next { s with frameLen := len, received := s.fbByte (len - 1) }
  else raise .bufferIndexOutOfRange

/-- PROC.VERIFY (R172): `expected <- crc8(data); match <- (expected == received)`. -/
def execProcVerify (s : State) : Result :=
  if s.frameLen - 1 ≤ capFB then
    let s1 := runChecksum (frameData s) s
    .next { s1 with expected := s1.acc, matched := matchFlag s1.acc s.received }
  else raise .bufferIndexOutOfRange

/-- PROC.DISPATCH (R174): the call leaves the core, and the control path waits for its return (R211). -/
def execProcDispatch (s : State) : Result :=
  if s.frameLen - 1 ≤ capFB then .next (push .awaitReply (logCall (frameCall s) s))
  else raise .bufferIndexOutOfRange

/-- PROC.RESPOND (R175): the checksum is appended at RB[response_len], and the response with it is sent. -/
def execProcRespond (s : State) : Result :=
  if s.responseLen > respCap then raise .dispatchContractViolation
  else
    let s1 := runChecksum (s.rbRange s.responseLen) s
    execEncSend (s.responseLen + 1) (writeRB s.responseLen s1.acc s1)

/-- PROC.FRAME(len) (R170): SPLIT, VERIFY, then ERR_CHECKSUM, or DISPATCH and (once it has returned) the choice on
`status`, which waits in `ctl`. -/
def execProcFrame (len : Nat) (s : State) : Result :=
  if len < minFrame ∨ len > capFB then raise .frameLengthOutOfRange
  else andThen (execProcSplit len s) fun s1 => andThen (execProcVerify s1) fun s2 =>
    if s2.matched then execProcDispatch (push .branchOnStatus s2) else execProcErrChecksum s2

end Sys2Proof.Machine
end

