-- ==== Sys2Proof/Machine/Decoder.lean ====
section
/-! DEFINITION. DEC: the meanings of 40_decoder.md's operations, the nine rows of the state table and the delivery. -/

namespace Sys2Proof.Machine

open Config

/-- DEC.DELIVER(len) (R110): runs `PROC.FRAME(len)`. -/
def execDecDeliver (len : Nat) (s : State) : Result := execProcFrame len s

/-- IDLE.END (R101): `cursor <- 0; dstate <- Receiving`. -/
def execIdleEnd (s : State) : Result := .next (setDState .receiving (resetBuffer s))

/-- IDLE.OTHER (R102): no state change. -/
def execIdleOther (_b : Byte) (s : State) : Result := .next s

/-- RX.END (R103): a frame of two bytes or more is delivered first and the rest of the rule waits for PROC to be done;
otherwise the frame is dropped. Then `cursor <- 0; dstate <- Idle`. -/
def execRxEnd (s : State) : Result :=
  if minFrame ≤ s.cursor then execDecDeliver s.cursor (push .closeFrame s) else .next (closeFrame s)

/-- RX.ESC (R104): `dstate <- Escaped`. -/
def execRxEsc (s : State) : Result := .next (setDState .escaped s)

/-- RX.DATA(b) (R105): append. The rule's selector has room; without it the index does not exist. -/
def execRxData (b : Byte) (s : State) : Result :=
  if s.cursor < capFB then .next (appendByte b s) else raise .bufferIndexOutOfRange

/-- RX.OVERFLOW (R106): `cursor <- 0; dstate <- Idle`; `b` is not stored. -/
def execRxOverflow (_b : Byte) (s : State) : Result := .next (setDState .idle (resetBuffer s))

/-- ESC.ESC_END (R107): the literal boundary marker, or a buffer reset when the buffer is full. -/
def execEscEscEnd (s : State) : Result := .next (resolveEscape endByte s)

/-- ESC.ESC_ESC (R108): the literal escape marker, or a buffer reset when the buffer is full. -/
def execEscEscEsc (s : State) : Result := .next (resolveEscape escByte s)

/-- ESC.OTHER (R109): protocol violation, `cursor <- 0; dstate <- Receiving`. -/
def execEscOther (_b : Byte) (s : State) : Result := .next (setDState .receiving (resetBuffer s))

end Sys2Proof.Machine
end

