-- ==== Sys2Proof/Machine/Dispatch.lean ====
section
/-! DEFINITION. One arm per operation, each a direct call of its meaning. -/

namespace Sys2Proof.Machine

def exec (i : Instr) (s : State) : Host.Outcome State Fault Refusal :=
  match i with
  | .idleEnd => Sys2Proof.Machine.execIdleEnd s
  | .idleOther b => Sys2Proof.Machine.execIdleOther b s
  | .rxEnd => Sys2Proof.Machine.execRxEnd s
  | .rxEsc => Sys2Proof.Machine.execRxEsc s
  | .rxData b => Sys2Proof.Machine.execRxData b s
  | .rxOverflow b => Sys2Proof.Machine.execRxOverflow b s
  | .escEscEnd => Sys2Proof.Machine.execEscEscEnd s
  | .escEscEsc => Sys2Proof.Machine.execEscEscEsc s
  | .escOther b => Sys2Proof.Machine.execEscOther b s
  | .decDeliver len => Sys2Proof.Machine.execDecDeliver len s
  | .encSend n => Sys2Proof.Machine.execEncSend n s
  | .encResync => Sys2Proof.Machine.execEncResync s
  | .encOpen => Sys2Proof.Machine.execEncOpen s
  | .encByteEnd => Sys2Proof.Machine.execEncByteEnd s
  | .encByteEsc => Sys2Proof.Machine.execEncByteEsc s
  | .encByteLit c => Sys2Proof.Machine.execEncByteLit c s
  | .encClose => Sys2Proof.Machine.execEncClose s
  | .crcClear => Sys2Proof.Machine.execCrcClear s
  | .crcStep b => Sys2Proof.Machine.execCrcStep b s
  | .procFrame len => Sys2Proof.Machine.execProcFrame len s
  | .procSplit len => Sys2Proof.Machine.execProcSplit len s
  | .procVerify => Sys2Proof.Machine.execProcVerify s
  | .procErrChecksum => Sys2Proof.Machine.execProcErrChecksum s
  | .procDispatch => Sys2Proof.Machine.execProcDispatch s
  | .procRespond => Sys2Proof.Machine.execProcRespond s
  | .procErrDispatch => Sys2Proof.Machine.execProcErrDispatch s
  | .procSendError code => Sys2Proof.Machine.execProcSendError code s

end Sys2Proof.Machine
end

