-- ==== Sys2Proof/Machine/Control.lean ====
section
/-! DEFINITION. The control path of a Feed (R100, R48): taking a byte, the waits on the sink and on the dispatcher, and what
comes after each; and placing a byte where the next step takes it. -/

namespace Sys2Proof.Machine

open Config

/-- `busy <- false` once nothing of the Feed is left (R28, R100). -/
def endFeed (s : State) : State := if s.ctl.isEmpty && s.emitting.isEmpty then { s with busy := false } else s

/-- After one move of the control path. -/
def finish (o : Result) : Result := andThen o fun s => .next (endFeed s)

/-- The core takes `b`, leaving `rest` with the source: `busy <- true` (R50, R100). -/
def takeInput (rest : List (Option Byte)) (s : State) : State := { s with input := rest, busy := true }

/-- `Feed(b)` (R100): the operation that `dstate`, `cursor` and the byte select. -/
def feed (b : Byte) (s : State) : Result := exec (decodeInput s.dstate s.cursor b) s

/-- The core, not busy, polls the source (R50). No byte: nothing changes (R51). -/
def poll (s : State) : Result :=
  match s.input with
  | [] => .next s
  | none :: rest => .next { s with input := rest }
  | some b :: rest => finish (feed b (takeInput rest s))

/-- The sink has taken the oldest waiting byte `b`; `bs` still wait. -/
def sinkTakes (b : Byte) (bs : List Byte) (s : State) : State := { s with emitting := bs, out := s.out ++ [b] }

/-- `Emit(b)` waits until the sink has taken the byte (R52): one attempt. -/
def offerByte (b : Byte) (bs : List Byte) (s : State) : State :=
  match s.sink with
  | true :: more => sinkTakes b bs { s with sink := more }
  | false :: more => { s with sink := more }
  | [] => if s.sinkOpen then sinkTakes b bs s else s

/-- The dispatcher call is outstanding (R174, R211): one look at whether it has returned; `k` is what comes after it. -/
def receiveReply (k : List Pending) (s : State) : Result :=
  match s.replies with
  | [] => .next s
  | none :: more => .next { s with replies := more }
  | some r :: more =>
    if r.writesInContract then .next (acceptReply r { s with replies := more, ctl := k })
    else raise .dispatchContractViolation

/-- A busy core goes on: first the bytes handed to `Emit`, then what is pending (R48). -/
def resume (s : State) : Result :=
  match s.emitting with
  | b :: bs => finish (.next (offerByte b bs s))
  | [] =>
    match s.ctl with
    | [] => finish (.next s)
    | .awaitReply :: k => finish (receiveReply k s)
    | .branchOnStatus :: k => finish (exec (statusOp s.status) { s with ctl := k })
    | .closeFrame :: k => finish (.next (closeFrame { s with ctl := k }))

/-- One move of the core. -/
def advance (s : State) : Result := if s.busy then resume s else poll s

/-- A reset just after a byte was taken, if the core takes one now; otherwise a plain reset (D21, log 13). -/
def resetTaking (s : State) : State :=
  if s.busy then resetCore s
  else
    match s.input with
    | [] => resetCore s
    | _ :: rest => resetCore { s with input := rest }

/-- One step: what the integrator does about reset, then the core's move. -/
def cycle (s : State) : Result :=
  match s.resets with
  | [] => advance s
  | .keepRunning :: more => advance { s with resets := more }
  | .reset :: more => .next (resetCore { s with resets := more })
  | .resetAfterTake :: more => .next (resetTaking { s with resets := more })

/-- Place `b` where the next step takes it and have the step read it under `tableState b` (log 11): a core that is not busy,
no reset due, and `b` as the source's next answer. -/
def placeInput (b : Byte) (s : State) : State :=
  { s with dstate := tableState b, busy := false, ctl := [], emitting := [], resets := [], input := some b :: s.input }

end Sys2Proof.Machine
end

