-- ==== Sys2Proof/Machine/Step.lean ====
section
/-! DEFINITION. One step of the machine, and the host's way to place an instruction where it takes its next one. -/

namespace Sys2Proof.Machine

/-- One step. -/
def step (s : State) : Host.Outcome State Fault Refusal := cycle s

/-- `s` with the byte of a table word as the next input byte, under the decoder state that selects its row (log 11). -/
def State.withFetchWord (s : State) (nbits w : Nat) : State := placeInput (BitVec.ofNat 8 (w % 2 ^ nbits)) s

end Sys2Proof.Machine
end

