-- ==== Sys2Proof/Safety.lean ====
section
/-! DEFINITION. Runs, the invariant of the core, and the terms the statements about runs use: a willing environment, what
can be observed, and which replies of the dispatcher cover their response. -/

namespace Sys2Proof.Machine

open Config

/-- `n` steps, ending at the first fault or refusal. -/
def runSteps : Nat → State → Result
  | 0, s => .next s
  | n + 1, s => andThen (step s) (runSteps n)

/-- `t` is reached from `s` in some number of steps. -/
def Reaches (s t : State) : Prop := ∃ n, runSteps n s = .next t

/-- The four shapes of the control path between steps: no Feed in progress; a Feed whose unit is being taken; the dispatcher
has returned; the dispatcher call is outstanding. -/
def ctlShape : List Pending → Bool
  | [] => true
  | [.closeFrame] => true
  | [.branchOnStatus, .closeFrame] => true
  | [.awaitReply, .branchOnStatus, .closeFrame] => true
  | _ => false

/-- The invariant every step keeps. -/
structure CoreInv (s : State) : Prop where
  /-- R23: `0 <= cursor <= CAP_FB` -/
  cursor_le : s.cursor ≤ capFB
  /-- FB's canonical form: only indexes 0..255 (R24, R47) -/
  fb_wf : s.fb.wf capFB = true
  /-- RB's canonical form (R25) -/
  rb_wf : s.rb.wf capRB = true
  /-- R101: `cursor` is 0 on every path into `Idle` -/
  idle_cursor : s.dstate = .idle → s.cursor = 0
  /-- the control path has one of its four shapes -/
  shape : ctlShape s.ctl = true
  /-- R28: `busy` is false only when every effect of the last byte is done -/
  quiet : s.busy = false → s.ctl = [] ∧ s.emitting = []
  /-- R110: the core is busy between steps only with a delivered frame of 2 to 256 bytes, FB and `cursor` as delivered -/
  delivering : s.busy = true → s.ctl ≠ [] ∧ s.dstate = .receiving ∧ minFrame ≤ s.cursor ∧ s.frameLen = s.cursor
  /-- R170, R208(4): a call is outstanding or just returned only for a matching checksum, before anything is emitted -/
  waiting : Pending.branchOnStatus ∈ s.ctl → s.matched = true ∧ s.emitting = []

/-- No reset comes, and the sink takes every byte after some finite delay (the fairness D26 allows to assume). -/
def Willing (s : State) : Prop := s.resets = [] ∧ s.sinkOpen = true

/-- The next reply of the dispatcher, after `k` steps in which it has not returned, is `r` (D26: it eventually returns). -/
def NextReply (s : State) (k : Nat) (r : Reply) (more : List (Option Reply)) : Prop :=
  s.replies = List.replicate k none ++ some r :: more

/-- What can be seen from outside (R30): the output stream, the dispatcher calls, which bytes have been taken, and a fault. -/
inductive Seen where
  | running (out : List Byte) (calls : List Call) (input : List (Option Byte)) (busy : Bool)
  | stopped (fault : Option Fault)
  deriving DecidableEq, Repr

/-- The observation of an outcome. -/
def seen : Result → Seen
  | .next s => .running s.out s.calls s.input s.busy
  | .fault r => .stopped (some r)
  | .refused _ => .stopped none

/-- Every successful reply to come writes all the response bytes it reports (R55: they are "in RB[0 .. response_len)"). -/
def RepliesCover (s : State) : Prop :=
  ∀ r, some r ∈ s.replies → r.status = .success → ∀ i, i < r.responseLen → i ∈ r.writes.map Prod.fst

end Sys2Proof.Machine
end

