-- ==== Sys2Proof/Certificates/Slice0/Obligations.lean ====
section
/-! DEFINITION. The statements for the provers, in the order of spec/: state and reset, selection, decoder, encoder, checksum,
processor, the rules of the whole machine, and the runs. A docstring names the rule it formalises. -/

open Sys2Proof Sys2Proof.Machine

/-! ## State, reset and the invariant -/

/-- R31: the values after reset. `dstate` is the source's; `cursor`, `acc` and `busy` are the spec's own decision D8; the buffers'
bytes are unspecified, in the model the free value of the reset (log 3). -/
def Obligations.ResetGivesTheStatedValues : Prop :=
  State.reset.dstate = .idle ∧ State.reset.cursor = 0 ∧ State.reset.acc = 0x00#8 ∧ State.reset.busy = false ∧
  (∀ i, State.reset.fbByte i = Config.unspecifiedByte State.reset.epoch .frame i) ∧
  (∀ i, State.reset.rbByte i = Config.unspecifiedByte State.reset.epoch .response i)

/-- The invariant holds at reset. -/
def Obligations.ResetMeetsTheInvariant : Prop := CoreInv State.reset

/-- Every step keeps the invariant: the cursor's bound (R23), the buffers' form (R24, R25, R47), the redundancy of IDLE.END's
cursor write (R101), and what a busy core holds (R28, R110, R170). -/
def Obligations.StepKeepsTheInvariant : Prop := ∀ s t, CoreInv s → step s = .next t → CoreInv t

/-- R230: a reset at any time gives every piece of state its value of R31 (the buffers unspecified anew), abandons the bytes
the sink has not taken and the outstanding call, and leaves the bytes already emitted; also when it comes just after the core
took a byte. That reset may come at any time is the spec's decision D21 (values: D8); where in a step it can come is the model's
(log 13), and so is what stays of the interfaces (log 14). -/
def Obligations.ResetAtAnyTimeAbandonsTheFeed : Prop :=
  ∀ s more,
    (s.resets = .reset :: more →
      ∃ t, step s = .next t ∧ t.dstate = .idle ∧ t.cursor = 0 ∧ t.acc = 0x00#8 ∧ t.busy = false ∧ t.emitting = [] ∧
        t.ctl = [] ∧ t.out = s.out ∧ t.calls = s.calls ∧ t.input = s.input ∧ t.epoch ≠ s.epoch ∧
        (∀ i, t.fbByte i = Config.unspecifiedByte t.epoch .frame i) ∧
        (∀ i, t.rbByte i = Config.unspecifiedByte t.epoch .response i)) ∧
    (∀ b rest, s.resets = .resetAfterTake :: more → s.busy = false → s.input = some b :: rest →
      ∃ t, step s = .next t ∧ t.dstate = .idle ∧ t.cursor = 0 ∧ t.acc = 0x00#8 ∧ t.busy = false ∧ t.emitting = [] ∧
        t.ctl = [] ∧ t.out = s.out ∧ t.calls = s.calls ∧ t.input = rest ∧ t.epoch ≠ s.epoch ∧
        (∀ i, t.fbByte i = Config.unspecifiedByte t.epoch .frame i) ∧
        (∀ i, t.rbByte i = Config.unspecifiedByte t.epoch .response i))

/-! ## Selection of an operation -/

/-- R100: a core that is not busy takes the byte, is busy, applies the one operation that `dstate`, the byte and the cursor
select, and is not busy again once nothing of the Feed is left. That a Feed which waits takes several steps is the model's
reading (log 1). -/
def Obligations.StepRunsTheSelectedOperation : Prop :=
  ∀ s b rest, s.resets = [] → s.busy = false → s.input = some b :: rest →
    step s = finish (exec
      (match s.dstate with
       | .idle => if b = 0xC0#8 then .idleEnd else .idleOther b
       | .receiving =>
         if b = 0xC0#8 then .rxEnd else if b = 0xDB#8 then .rxEsc
         else if s.cursor < 256 then .rxData b else .rxOverflow b
       | .escaped => if b = 0xDC#8 then .escEscEnd else if b = 0xDD#8 then .escEscEsc else .escOther b)
      { s with input := rest, busy := true }) ∧
    ∀ t, finish (.next t) = .next (if t.ctl = [] ∧ t.emitting = [] then { t with busy := false } else t)

/-- A step is `exec` of the instruction the decoder reads from the byte taken, with the Feed's end around it. -/
def Obligations.StepIsExecOfTheDecodedByte : Prop :=
  ∀ s b rest i, s.resets = [] → s.busy = false → s.input = some b :: rest →
    decode (.inputByte s.dstate s.cursor b) = .ok i →
    i.wf = true ∧ step s = finish (exec i { s with input := rest, busy := true })

/-- R70: for every state, cursor and byte exactly one row of the opcode table is selected, and it is the row of the decoded
operation. -/
def Obligations.ExactlyOneTableRowIsSelected : Prop :=
  ∀ (d : DState) (cursor : Nat) (b : Byte), cursor ≤ 256 →
    ∃ r, inputRows.filter (fun r => r.selects d cursor b) = [r] ∧ inputMnemonic (decodeInput d cursor b) = some r.mnemonic

/-- Words written out from the table's `match` column decode to their rows' operations. -/
def Obligations.TableWordsDecode : Prop :=
  decode (.inputByte .idle 0 0b11000000) = .ok .idleEnd ∧
  decode (.inputByte .receiving 3 0b11000000) = .ok .rxEnd ∧
  decode (.inputByte .receiving 256 0b11011011) = .ok .rxEsc ∧
  decode (.inputByte .receiving 255 0b11011110) = .ok (.rxData 0xDE#8) ∧
  decode (.inputByte .receiving 256 0b01000001) = .ok (.rxOverflow 0x41#8) ∧
  decode (.inputByte .escaped 7 0b11011100) = .ok .escEscEnd ∧
  decode (.inputByte .escaped 7 0b11011101) = .ok .escEscEsc ∧
  decode (.inputByte .escaped 7 0b11000000) = .ok (.escOther 0xC0#8) ∧
  decode (.payloadByte 0b11000000) = .ok .encByteEnd ∧
  decode (.payloadByte 0b11011011) = .ok .encByteEsc ∧
  decode (.payloadByte 0b11011100) = .ok (.encByteLit 0xDC#8) ∧
  decode (.event (.errorWith 0b00000010)) = .ok (.procSendError .dispatchFailure) ∧
  decode (.event (.errorWith 0b00000011)) = .error (.reservedErrorCode 0x03#8)

/-- Decode and encode agree: every well-formed operation is read back, with every operand. -/
def Obligations.DecodeOfEncodeIsTheOperation : Prop := ∀ i : Instr, i.wf = true → decode (encode i) = .ok i

/-- The other direction: what is decoded is well formed, and its encoding is the selection it was decoded from (for an input
byte: the same state and byte; the cursor matters only as room or no room). -/
def Obligations.EncodeOfDecodeIsTheSelection : Prop :=
  ∀ (sel : Selector) (i : Instr), decode sel = .ok i →
    i.wf = true ∧
    match sel, encode i with
    | .inputByte d c b, .inputByte d' c' b' =>
      d' = d ∧ b' = b ∧ decode (.inputByte d c b) = decode (.inputByte d' c' b')
    | .payloadByte c, .payloadByte c' => c' = c
    | .event e, .event e' => e' = e
    | _, _ => False

/-! ## Decoder -/

/-- R101. That FB's bytes stay is the spec's decision D9. -/
def Obligations.BoundaryInIdleOpensAFrame : Prop :=
  ∀ s, exec .idleEnd s = .next { s with cursor := 0, dstate := .receiving }

/-- R102. -/
def Obligations.OtherBytesInIdleAreIgnored : Prop := ∀ b s, exec (.idleOther b) s = .next s

/-- R103: with `cursor > 1` the frame is delivered and the rule's last two lines wait for PROC (as `closeFrame`, log 1);
otherwise they run at once, and nothing is delivered. Where they have waited, the step that ends the Feed runs them. -/
def Obligations.BoundaryInReceivingClosesTheFrame : Prop :=
  (∀ s, s.cursor ≤ 1 → exec .rxEnd s = .next { s with cursor := 0, dstate := .idle }) ∧
  (∀ s, 1 < s.cursor → exec .rxEnd s = exec (.decDeliver s.cursor) { s with ctl := .closeFrame :: s.ctl }) ∧
  (∀ s, 1 < s.cursor → s.cursor ≤ 256 → ∃ t, exec .rxEnd s = .next t) ∧
  (∀ s, s.resets = [] → s.busy = true → s.emitting = [] → s.ctl = [.closeFrame] →
    step s = .next { s with ctl := [], cursor := 0, dstate := .idle, busy := false })

/-- R104. -/
def Obligations.EscapeInReceivingWaitsForACode : Prop := ∀ s, exec .rxEsc s = .next { s with dstate := .escaped }

/-- R105, for the operands of its selector: `cursor < CAP_FB`. -/
def Obligations.DataByteIsAppendedAtTheCursor : Prop :=
  ∀ b s, s.cursor < 256 → exec (.rxData b) s = .next { s with fb := s.fb.write s.cursor b, cursor := s.cursor + 1 }

/-- R106 and R109: the byte is not stored and the frame is dropped, to `Idle` after an overflow, to `Receiving` after an invalid
escape. -/
def Obligations.OverflowAndInvalidEscapeDropTheFrame : Prop :=
  (∀ b s, exec (.rxOverflow b) s = .next { s with cursor := 0, dstate := .idle }) ∧
  (∀ b s, exec (.escOther b) s = .next { s with cursor := 0, dstate := .receiving })

/-- R107 and R108: append the literal byte when there is room, else reset the buffer; `Receiving` in both cases. -/
def Obligations.EscapeCodesResolveToLiteralBytes : Prop :=
  (∀ s, s.cursor < 256 → exec .escEscEnd s =
    .next { s with fb := s.fb.write s.cursor 0xC0#8, cursor := s.cursor + 1, dstate := .receiving }) ∧
  (∀ s, 256 ≤ s.cursor → exec .escEscEnd s = .next { s with cursor := 0, dstate := .receiving }) ∧
  (∀ s, s.cursor < 256 → exec .escEscEsc s =
    .next { s with fb := s.fb.write s.cursor 0xDB#8, cursor := s.cursor + 1, dstate := .receiving }) ∧
  (∀ s, 256 ≤ s.cursor → exec .escEscEsc s = .next { s with cursor := 0, dstate := .receiving })

/-- The frame of the three appending operations, read byte by byte: FB changes at the cursor only, RB nowhere, and nothing
else but `cursor` and `dstate` (R105, R107, R108, R47). -/
def Obligations.AppendChangesOneFrameByte : Prop :=
  ∀ i v s t,
    (i = .rxData v ∨ (i = .escEscEnd ∧ v = 0xC0#8) ∨ (i = .escEscEsc ∧ v = 0xDB#8)) → s.cursor < 256 → exec i s = .next t →
    t.fbByte s.cursor = v ∧ (∀ a, a ≠ s.cursor → t.fbByte a = s.fbByte a) ∧ (∀ a, t.rbByte a = s.rbByte a) ∧
    t.cursor = s.cursor + 1 ∧ t.dstate = (if i = .rxData v then s.dstate else .receiving) ∧
    t = { s with fb := t.fb, cursor := t.cursor, dstate := t.dstate }

/-- The frame of the operations that store nothing in FB: every byte of both buffers reads as before, and only `cursor` and
`dstate` may change (R101, R102, R103 without delivery, R104, R106, R109, and R107, R108 at full capacity; R45 and the spec's
decision D9). -/
def Obligations.BufferResetsKeepEveryByte : Prop :=
  ∀ i s t,
    (i = .idleEnd ∨ (∃ b, i = .idleOther b) ∨ (i = .rxEnd ∧ s.cursor ≤ 1) ∨ i = .rxEsc ∨ (∃ b, i = .rxOverflow b) ∨
      (∃ b, i = .escOther b) ∨ ((i = .escEscEnd ∨ i = .escEscEsc) ∧ 256 ≤ s.cursor)) →
    exec i s = .next t →
    (∀ a, t.fbByte a = s.fbByte a) ∧ (∀ a, t.rbByte a = s.rbByte a) ∧ (t.cursor = 0 ∨ t.cursor = s.cursor) ∧
    t = { s with cursor := t.cursor, dstate := t.dstate }

/-- R110: delivery runs PROC.FRAME on the frame, with FB, `cursor` and `dstate` as they were until it is done (log 1). -/
def Obligations.DeliveryRunsTheFrameProcessor : Prop :=
  ∀ len s,
    exec (.decDeliver len) s = exec (.procFrame len) s ∧
    (2 ≤ len → len ≤ 256 →
      ∃ t, exec (.decDeliver len) s = .next t ∧ t.fb = s.fb ∧ t.cursor = s.cursor ∧ t.dstate = s.dstate)

/-! ## Encoder -/

/-- R131 to R136: what each step of a send emits, after everything emitted before it, and that it writes the output stream
only. -/
def Obligations.EncoderStepsEmitTheirBytes : Prop :=
  ∀ s c,
    exec .encResync s = .next { s with emitting := s.emitting ++ [0xDB#8, 0xDE#8] } ∧
    exec .encOpen s = .next { s with emitting := s.emitting ++ [0xC0#8] } ∧
    exec .encByteEnd s = .next { s with emitting := s.emitting ++ [0xDB#8, 0xDC#8] } ∧
    exec .encByteEsc s = .next { s with emitting := s.emitting ++ [0xDB#8, 0xDD#8] } ∧
    exec (.encByteLit c) s = .next { s with emitting := s.emitting ++ [c] } ∧
    exec .encClose s = .next { s with emitting := s.emitting ++ [0xC0#8] }

/-- R130: a send of RB[0 .. n) emits `ESC CLEAR END`, the escaped payload and `END`, reads RB and writes nothing else; above
256 it faults (the spec's decision D13). -/
def Obligations.SendEmitsTheUnitOfThePayload : Prop :=
  ∀ n s,
    (n ≤ 256 → exec (.encSend n) s = .next { s with emitting := s.emitting ++ ([0xDB#8, 0xDE#8, 0xC0#8] ++
      (s.rbRange n).flatMap (fun c => if c = 0xC0#8 then [0xDB#8, 0xDC#8] else if c = 0xDB#8 then [0xDB#8, 0xDD#8] else [c]) ++
      [0xC0#8]) }) ∧
    (256 < n → exec (.encSend n) s = .fault .sendLengthExceeded)

/-- R74 and R244: a unit has `4 + n + k` bytes, `k` the payload bytes that need escaping; 5 to 516 for 1 to 256 bytes. -/
def Obligations.UnitLengthCountsTheEscapes : Prop :=
  ∀ p : List Byte,
    (unit p).length = 4 + p.length + (p.filter (fun c => c == 0xC0#8 || c == 0xDB#8)).length ∧
    (1 ≤ p.length → p.length ≤ 256 → 5 ≤ (unit p).length ∧ (unit p).length ≤ 516)

/-- R137: between the markers `0xC0` never occurs, and `0xDB` occurs only as the first byte of an escape pair: every
occurrence is followed by `0xDC` or `0xDD`, and every payload byte is recovered. -/
def Obligations.EscapedPayloadHoldsNoMarker : Prop :=
  ∀ p : List Byte,
    (0xC0#8 : Byte) ∉ esc p ∧
    (∀ l r, esc p = l ++ (0xDB#8 : Byte) :: r → ∃ c r', r = c :: r' ∧ (c = 0xDC#8 ∨ c = 0xDD#8)) ∧
    unescape (esc p) = some p

/-! ## Checksum -/

/-- R150 and R151: CRC.CLEAR, and CRC.STEP as its pseudocode has it, on bit 7 and `t[6:0] ++ 0b0`. -/
def Obligations.ChecksumOperationsUpdateTheAccumulator : Prop :=
  ∀ b s,
    let iteration : Byte → Byte := fun t =>
      if t.getLsbD 7 then (t.extractLsb' 0 7 ++ 0#1) ^^^ 0x07#8 else t.extractLsb' 0 7 ++ 0#1
    exec .crcClear s = .next { s with acc := 0x00#8 } ∧
    exec (.crcStep b) s = .next { s with acc := Nat.iterate iteration 8 (s.acc ^^^ b) }

/-- R152 and R153: CRC.CLEAR and then CRC.STEP for each byte leave `crc8` of the bytes in `acc`, whatever `acc` held, and
change nothing else; the checksum of nothing is 0x00. -/
def Obligations.ChecksumIsAFunctionOfTheBytes : Prop :=
  (∀ (x : List Byte) s,
    x.foldl (fun o b => andThen o (exec (.crcStep b))) (exec .crcClear s) = .next { s with acc := crc8 x }) ∧
  crc8 [] = 0x00#8

/-- R154: absorbing a byte is `T[acc XOR b]` with `T` linear over XOR, `T[0] = 0`, and `T` a bijection. -/
def Obligations.ChecksumTableIsLinearAndBijective : Prop :=
  (∀ acc b : Byte, crcAbsorb acc b = crc8 [acc ^^^ b]) ∧
  (∀ u v : Byte, crc8 [u ^^^ v] = crc8 [u] ^^^ crc8 [v]) ∧
  crc8 [0x00#8] = 0x00#8 ∧
  Function.Bijective (fun v : Byte => crc8 [v])

/-- R155: appending the checksum gives checksum 0x00, and no other byte does; so the zero test over a whole frame and the
comparison of R172 give the same verdict. -/
def Obligations.ChecksumOfAFrameIsZeroExactlyWhenItMatches : Prop :=
  (∀ (x : List Byte) (r : Byte), crc8 (x ++ [r]) = 0x00#8 ↔ r = crc8 x) ∧
  (∀ (s : State) (n : Nat), crc8 (s.fbRange (n + 1)) = 0x00#8 ↔ crc8 (s.fbRange n) = s.fbByte n)

/-- R156's table `T[v] = crc8([v])`, all 256 entries, and the check value of R157. -/
def Obligations.ChecksumTableEntries : Prop :=
  (List.range 256).map (fun v => (crc8 [BitVec.ofNat 8 v]).toNat) =
    [0x00, 0x07, 0x0E, 0x09, 0x1C, 0x1B, 0x12, 0x15, 0x38, 0x3F, 0x36, 0x31, 0x24, 0x23, 0x2A, 0x2D] ++
    [0x70, 0x77, 0x7E, 0x79, 0x6C, 0x6B, 0x62, 0x65, 0x48, 0x4F, 0x46, 0x41, 0x54, 0x53, 0x5A, 0x5D] ++
    [0xE0, 0xE7, 0xEE, 0xE9, 0xFC, 0xFB, 0xF2, 0xF5, 0xD8, 0xDF, 0xD6, 0xD1, 0xC4, 0xC3, 0xCA, 0xCD] ++
    [0x90, 0x97, 0x9E, 0x99, 0x8C, 0x8B, 0x82, 0x85, 0xA8, 0xAF, 0xA6, 0xA1, 0xB4, 0xB3, 0xBA, 0xBD] ++
    [0xC7, 0xC0, 0xC9, 0xCE, 0xDB, 0xDC, 0xD5, 0xD2, 0xFF, 0xF8, 0xF1, 0xF6, 0xE3, 0xE4, 0xED, 0xEA] ++
    [0xB7, 0xB0, 0xB9, 0xBE, 0xAB, 0xAC, 0xA5, 0xA2, 0x8F, 0x88, 0x81, 0x86, 0x93, 0x94, 0x9D, 0x9A] ++
    [0x27, 0x20, 0x29, 0x2E, 0x3B, 0x3C, 0x35, 0x32, 0x1F, 0x18, 0x11, 0x16, 0x03, 0x04, 0x0D, 0x0A] ++
    [0x57, 0x50, 0x59, 0x5E, 0x4B, 0x4C, 0x45, 0x42, 0x6F, 0x68, 0x61, 0x66, 0x73, 0x74, 0x7D, 0x7A] ++
    [0x89, 0x8E, 0x87, 0x80, 0x95, 0x92, 0x9B, 0x9C, 0xB1, 0xB6, 0xBF, 0xB8, 0xAD, 0xAA, 0xA3, 0xA4] ++
    [0xF9, 0xFE, 0xF7, 0xF0, 0xE5, 0xE2, 0xEB, 0xEC, 0xC1, 0xC6, 0xCF, 0xC8, 0xDD, 0xDA, 0xD3, 0xD4] ++
    [0x69, 0x6E, 0x67, 0x60, 0x75, 0x72, 0x7B, 0x7C, 0x51, 0x56, 0x5F, 0x58, 0x4D, 0x4A, 0x43, 0x44] ++
    [0x19, 0x1E, 0x17, 0x10, 0x05, 0x02, 0x0B, 0x0C, 0x21, 0x26, 0x2F, 0x28, 0x3D, 0x3A, 0x33, 0x34] ++
    [0x4E, 0x49, 0x40, 0x47, 0x52, 0x55, 0x5C, 0x5B, 0x76, 0x71, 0x78, 0x7F, 0x6A, 0x6D, 0x64, 0x63] ++
    [0x3E, 0x39, 0x30, 0x37, 0x22, 0x25, 0x2C, 0x2B, 0x06, 0x01, 0x08, 0x0F, 0x1A, 0x1D, 0x14, 0x13] ++
    [0xAE, 0xA9, 0xA0, 0xA7, 0xB2, 0xB5, 0xBC, 0xBB, 0x96, 0x91, 0x98, 0x9F, 0x8A, 0x8D, 0x84, 0x83] ++
    [0xDE, 0xD9, 0xD0, 0xD7, 0xC2, 0xC5, 0xCC, 0xCB, 0xE6, 0xE1, 0xE8, 0xEF, 0xFA, 0xFD, 0xF4, 0xF3] ∧
  crc8 [0x31#8, 0x32#8, 0x33#8, 0x34#8, 0x35#8, 0x36#8, 0x37#8, 0x38#8, 0x39#8] = 0xF4#8

/-! ## Processor -/

/-- The model's own fault (log 8): an operation on operands or in a state that its rule excludes, whose index FB does not have
(R40, R47), stops. -/
def Obligations.IndexesOutsideFBFault : Prop :=
  (∀ b s, 256 ≤ s.cursor → exec (.rxData b) s = .fault .bufferIndexOutOfRange) ∧
  (∀ len s, (len = 0 ∨ 256 < len) → exec (.procSplit len) s = .fault .bufferIndexOutOfRange) ∧
  (∀ s, 257 < s.frameLen → exec .procVerify s = .fault .bufferIndexOutOfRange) ∧
  (∀ s, 257 < s.frameLen → exec .procDispatch s = .fault .bufferIndexOutOfRange)

/-- R171: the split of a frame of 1 to 256 bytes (a frame has at least 2): `received` is FB[len-1], and the view `data`, which
the frame length fixes, is FB[0 .. len-1); nothing else changes. -/
def Obligations.SplitReadsTheLastByteAsChecksum : Prop :=
  ∀ len s, 1 ≤ len → len ≤ 256 →
    ∃ t, exec (.procSplit len) s = .next t ∧ t = { s with frameLen := len, received := s.fbByte (len - 1) } ∧
      frameData t = s.fbRange (len - 1)

/-- R172: the checksum over `data` = FB[0 .. len-1) goes to `acc` and `expected`, and `match` is its comparison with the
received byte (a frame has 2 to 256 bytes; up to 257 `data` lies in FB). -/
def Obligations.VerifyComparesTheChecksums : Prop :=
  ∀ s, s.frameLen ≤ 257 →
    exec .procVerify s = .next { s with
      acc := crc8 (s.fbRange (s.frameLen - 1)), expected := crc8 (s.fbRange (s.frameLen - 1)),
      matched := decide (crc8 (s.fbRange (s.frameLen - 1)) = s.received) }

/-- R173, R176 and R177: each error frame is staged in RB[0 .. 3) (the spec's decision D10) and emitted as its fixed unit;
nothing is dispatched. -/
def Obligations.ErrorFramesAreTheTwoFixedUnits : Prop :=
  ∀ s,
    exec .procErrChecksum s = .next { s with
      rb := ((s.rb.write 0 0xFF#8).write 1 0x01#8).write 2 0xD0#8, acc := 0xD0#8,
      emitting := s.emitting ++ [0xDB#8, 0xDE#8, 0xC0#8, 0xFF#8, 0x01#8, 0xD0#8, 0xC0#8] } ∧
    exec .procErrDispatch s = .next { s with
      rb := ((s.rb.write 0 0xFF#8).write 1 0x02#8).write 2 0xD9#8, acc := 0xD9#8,
      emitting := s.emitting ++ [0xDB#8, 0xDE#8, 0xC0#8, 0xFF#8, 0x02#8, 0xD9#8, 0xC0#8] } ∧
    exec (.procSendError .checksumMismatch) s = exec .procErrChecksum s ∧
    exec (.procSendError .dispatchFailure) s = exec .procErrDispatch s

/-- R174: the call with the application bytes, their number and capacity 255 leaves the core, which then waits; when the
dispatcher returns within its duties, its writes to RB (nothing is cleared, the spec's decision D11), `status` and `response_len`
are taken (log 12). -/
def Obligations.DispatchCallsOnceAndTakesTheReply : Prop :=
  (∀ s, s.frameLen ≤ 257 →
    exec .procDispatch s = .next { s with
      calls := s.calls ++ [⟨s.fbRange (s.frameLen - 1), s.frameLen - 1, 255⟩], ctl := .awaitReply :: s.ctl }) ∧
  (∀ s p k r more, s.resets = [] → s.busy = true → s.emitting = [] → s.ctl = .awaitReply :: p :: k →
    s.replies = some r :: more → (∀ c ∈ r.writes, c.1 < 255) → r.frameWrites = [] →
    step s = .next { s with
      replies := more, ctl := p :: k, rb := r.writes.foldl (fun m c => m.write c.1 c.2) s.rb,
      status := r.status, responseLen := r.responseLen })

/-- R175: the checksum of the response goes to RB[response_len], and the response with it is sent as one unit; a length above
255 faults (the spec's decision D6). -/
def Obligations.RespondAppendsTheChecksumAndSends : Prop :=
  ∀ s,
    (s.responseLen ≤ 255 → exec .procRespond s = .next { s with
      acc := crc8 (s.rbRange s.responseLen),
      rb := s.rb.write s.responseLen (crc8 (s.rbRange s.responseLen)),
      emitting := s.emitting ++ unit (s.rbRange s.responseLen ++ [crc8 (s.rbRange s.responseLen)]) }) ∧
    (255 < s.responseLen → exec .procRespond s = .fault .dispatchContractViolation)

/-- R170: a frame of 2 to 256 bytes is split and verified; with a wrong checksum the error unit is emitted and nothing is
dispatched, with the right one the dispatcher is called and the choice on `status` comes after its return (log 1); any other
length faults (the spec's decision D28). -/
def Obligations.FrameOperationFollowsTheVerdict : Prop :=
  (∀ len s, 2 ≤ len → len ≤ 256 → crc8 (s.fbRange (len - 1)) ≠ s.fbByte (len - 1) →
    exec (.procFrame len) s = .next { s with
      frameLen := len, received := s.fbByte (len - 1), expected := crc8 (s.fbRange (len - 1)), matched := false,
      rb := ((s.rb.write 0 0xFF#8).write 1 0x01#8).write 2 0xD0#8, acc := 0xD0#8,
      emitting := s.emitting ++ [0xDB#8, 0xDE#8, 0xC0#8, 0xFF#8, 0x01#8, 0xD0#8, 0xC0#8] }) ∧
  (∀ len s, 2 ≤ len → len ≤ 256 → crc8 (s.fbRange (len - 1)) = s.fbByte (len - 1) →
    exec (.procFrame len) s = .next { s with
      frameLen := len, received := s.fbByte (len - 1), expected := crc8 (s.fbRange (len - 1)), matched := true,
      acc := crc8 (s.fbRange (len - 1)), calls := s.calls ++ [⟨s.fbRange (len - 1), len - 1, 255⟩],
      ctl := .awaitReply :: .branchOnStatus :: s.ctl }) ∧
  (∀ s p k, s.resets = [] → s.busy = true → s.emitting = [] → s.ctl = .branchOnStatus :: p :: k →
    (s.status = .success → step s = finish (exec .procRespond { s with ctl := p :: k })) ∧
    (s.status = .failure → step s = finish (exec .procErrDispatch { s with ctl := p :: k }))) ∧
  (∀ len s, (len < 2 ∨ 256 < len) → exec (.procFrame len) s = .fault .frameLengthOutOfRange)

/-- The frame of the processor's storing operations, read byte by byte: RB changes at the staged positions only, FB nowhere
(R41, R42, R175, R177). -/
def Obligations.ProcessorStoresOnlyTheStagedBytes : Prop :=
  (∀ i code s t, (i = .procErrChecksum ∧ code = (0x01#8 : Byte) ∨ i = .procErrDispatch ∧ code = 0x02#8) → exec i s = .next t →
    t.rbByte 0 = 0xFF#8 ∧ t.rbByte 1 = code ∧ t.rbByte 2 = crc8 [0xFF#8, code] ∧ (∀ a, 3 ≤ a → t.rbByte a = s.rbByte a) ∧
    (∀ a, t.fbByte a = s.fbByte a) ∧ t = { s with rb := t.rb, acc := t.acc, emitting := t.emitting }) ∧
  (∀ s t, exec .procRespond s = .next t →
    t.rbByte s.responseLen = crc8 (s.rbRange s.responseLen) ∧
    (∀ a, a ≠ s.responseLen → t.rbByte a = s.rbByte a) ∧
    (∀ a, t.fbByte a = s.fbByte a) ∧ t = { s with rb := t.rb, acc := t.acc, emitting := t.emitting })

/-- The frame of the operations that store nothing in a buffer (R130 and R138 for the buffer a send reads; R150, R151, R171,
R172): every byte of FB and of RB reads as before, the decoder's registers stay, nothing is taken from the source or given to the
sink. Two clauses are the model's choice and no rule's: an ENC operation leaves `out` unchanged because its bytes wait in
`emitting` until the sink takes them (log 10), and PROC.DISPATCH leaves RB, `status` and `response_len` unchanged because `exec`
of it ends with the call outstanding (log 1) and the reply's writes come with the return, in a later step (log 12). -/
def Obligations.NonStoringOperationsKeepBothBuffers : Prop :=
  ∀ i s t,
    (i = .encResync ∨ i = .encOpen ∨ i = .encByteEnd ∨ i = .encByteEsc ∨ (∃ c, i = .encByteLit c) ∨ i = .encClose ∨
      (∃ n, i = .encSend n) ∨ i = .crcClear ∨ (∃ b, i = .crcStep b) ∨ (∃ len, i = .procSplit len) ∨ i = .procVerify ∨
      i = .procDispatch) →
    exec i s = .next t →
    (∀ a, t.fbByte a = s.fbByte a) ∧ (∀ a, t.rbByte a = s.rbByte a) ∧ t.dstate = s.dstate ∧ t.cursor = s.cursor ∧
    t.busy = s.busy ∧ t.input = s.input ∧ t.out = s.out ∧ t.status = s.status ∧ t.responseLen = s.responseLen

/-- R212: a successful response `FF 01` or `FF 02` is on the wire the same as the error frame. -/
def Obligations.ReservedResponsesLookLikeErrors : Prop :=
  ∀ s t u, s.responseLen = 2 → s.rbByte 0 = 0xFF#8 →
    ((s.rbByte 1 = 0x01#8 ∧ exec .procErrChecksum s = .next u) ∨ (s.rbByte 1 = 0x02#8 ∧ exec .procErrDispatch s = .next u)) →
    exec .procRespond s = .next t → t.emitting = u.emitting

/-! ## Rules of the whole machine -/

/-- R51: a poll answered `None` changes no state and emits nothing; the source's coming answers are all that moves on. That a
used-up list of answers offers `None` from then on is the model's choice (log 2); the step then answers the same state. -/
def Obligations.PollWithoutAByteChangesNothing : Prop :=
  ∀ s, s.resets = [] → s.busy = false →
    (∀ rest, s.input = none :: rest → step s = .next { s with input := rest }) ∧
    (s.input = [] → step s = .next s)

/-- R50 and R48: a busy core takes no input. -/
def Obligations.BusyCoreTakesNoInput : Prop := ∀ s t, s.busy = true → step s = .next t → t.input = s.input

/-- R46 and R52: a byte taken by the sink stays emitted, bytes leave one at a time and in the order of `Emit`, no byte is
taken from the source twice, and calls are made one at a time. -/
def Obligations.StreamsMoveForwardOnly : Prop :=
  ∀ s t, step s = .next t →
    (t.out = s.out ∨ ∃ b, s.emitting = b :: t.emitting ∧ t.out = s.out ++ [b]) ∧
    (t.calls = s.calls ∨ ∃ c, t.calls = s.calls ++ [c]) ∧
    (t.input = s.input ∨ ∃ x, s.input = x :: t.input)

/-- R52: `Emit` waits until the sink has taken the byte (the spec's decision D4); one attempt a step, answered as the sink's data
says (log 2, log 10). -/
def Obligations.EmitWaitsForTheSink : Prop :=
  ∀ s b bs, s.resets = [] → s.busy = true → s.ctl ≠ [] → s.emitting = b :: bs →
    (∀ more, s.sink = true :: more → step s = .next { s with sink := more, emitting := bs, out := s.out ++ [b] }) ∧
    (∀ more, s.sink = false :: more → step s = .next { s with sink := more }) ∧
    (s.sink = [] → s.sinkOpen = true → step s = .next { s with emitting := bs, out := s.out ++ [b] })

/-- R211: a dispatcher that does not return, and a sink that never takes the byte, leave the core busy where it is (the spec's
decision D7; in the model a step that changes nothing, log 9). -/
def Obligations.StuckStatesDoNotMove : Prop :=
  (∀ s k n, s.resets = [] → s.busy = true → s.emitting = [] → s.ctl = .awaitReply :: k → s.replies = [] →
    runSteps n s = .next s) ∧
  (∀ s b bs n, s.resets = [] → s.busy = true → s.emitting = b :: bs → s.sink = [] → s.sinkOpen = false →
    runSteps n s = .next s)

/-- R210, first item (the spec's decision D6): the dispatcher's breaches of its duties are the fault, before any byte of a unit
is emitted; a forbidden write is found when the call returns (log 12). -/
def Obligations.DispatcherBreachIsAFault : Prop :=
  (∀ s k r more, s.resets = [] → s.busy = true → s.emitting = [] → s.ctl = .awaitReply :: k → s.replies = some r :: more →
    ((∃ c ∈ r.writes, 255 ≤ c.1) ∨ r.frameWrites ≠ []) → step s = .fault .dispatchContractViolation) ∧
  (∀ s k, s.resets = [] → s.busy = true → s.emitting = [] → s.ctl = .branchOnStatus :: k → s.status = .success →
    255 < s.responseLen → step s = .fault .dispatchContractViolation)

/-- R203 and R210: from a state that meets the invariant, no run is refused and none ends in a fault but the dispatcher's
breach: no error is fatal, and the other faults (the spec's D13 and D28, the model's own of log 8) are unreachable. -/
def Obligations.OnlyTheDispatcherCanStopTheCore : Prop :=
  ∀ s, CoreInv s → ∀ n, (∃ t, runSteps n s = .next t ∧ CoreInv t) ∨ runSteps n s = .fault .dispatchContractViolation

/-- R22, first half: `Escaped` is entered only from `Receiving`, by an escape marker. -/
def Obligations.EscapedIsEnteredOnlyFromReceiving : Prop :=
  ∀ s t, step s = .next t → t.dstate = .escaped →
    s.dstate = .escaped ∨ (s.dstate = .receiving ∧ s.busy = false ∧ ∃ rest, s.input = some 0xDB#8 :: rest)

/-- R22, second half, R41 and R47: without a reset FB changes only in `Receiving` or when resolving an escape, only at the
cursor, and the cursor is below 256. -/
def Obligations.FrameBufferChangesOnlyAtTheCursor : Prop :=
  ∀ s t, step s = .next t → t.epoch = s.epoch → t.fb ≠ s.fb →
    s.busy = false ∧ (s.dstate = .receiving ∨ s.dstate = .escaped) ∧ s.cursor < 256 ∧ t.cursor = s.cursor + 1 ∧
    ∀ a, a ≠ s.cursor → t.fbByte a = s.fbByte a

/-- R42: without a reset RB changes only while a delivered frame is processed. -/
def Obligations.ResponseBufferChangesOnlyWhileProcessing : Prop :=
  ∀ s t, step s = .next t → t.epoch = s.epoch → t.rb ≠ s.rb →
    s.busy = true ∨ (s.dstate = .receiving ∧ 2 ≤ s.cursor ∧ ∃ rest, s.input = some 0xC0#8 :: rest)

/-- R112 and the last part of R178: an input byte that delivers no frame emits nothing, calls nothing and is done in one
step, whatever it is. -/
def Obligations.UndeliveredBytesAreSilent : Prop :=
  ∀ s b rest, CoreInv s → s.resets = [] → s.busy = false → s.input = some b :: rest →
    ¬(s.dstate = .receiving ∧ b = 0xC0#8 ∧ 2 ≤ s.cursor) →
    ∃ t, step s = .next t ∧ t.busy = false ∧ t.emitting = [] ∧ t.out = s.out ∧ t.calls = s.calls ∧ t.rb = s.rb ∧
      t.acc = s.acc ∧ t.input = rest

/-! ## Runs -/

/-- R102, R233, R239: any bytes but the boundary marker leave a core in `Idle` as it is. -/
def Obligations.BytesBeforeABoundaryAreLost : Prop :=
  ∀ (bs : List Byte) s rest, s.resets = [] → s.busy = false → s.ctl = [] → s.emitting = [] → s.dstate = .idle →
    (0xC0#8 : Byte) ∉ bs → s.input = bs.map some ++ rest → runSteps bs.length s = .next { s with input := rest }

/-- R111: in `Receiving`, bytes that de-escape to `q` put `q` into FB after what was there, byte for byte; an escape marker
after them is pending and not in FB. -/
def Obligations.FrameBufferHoldsTheDeEscapedBytes : Prop :=
  ∀ (bs q : List Byte) s rest, s.resets = [] → s.busy = false → s.ctl = [] → s.emitting = [] → s.dstate = .receiving →
    unescape bs = some q → s.cursor + q.length ≤ 256 → s.input = bs.map some ++ rest →
    ∃ t, runSteps bs.length s = .next t ∧ t.dstate = .receiving ∧ t.cursor = s.cursor + q.length ∧
      t.fbRange t.cursor = s.fbRange s.cursor ++ q ∧ t.busy = false ∧ t.input = rest ∧ t.out = s.out ∧
      t.calls = s.calls ∧ t.rb = s.rb ∧
      ∀ rest', rest = some 0xDB#8 :: rest' → step t = .next { t with dstate := .escaped, input := rest' }

/-- R113: the unit of a payload of 2 to 256 bytes, fed to a core in `Idle`, delivers the payload and nothing before it; a
payload of 0 or 1 byte is delivered as nothing. -/
def Obligations.UnitFedToAnIdleCoreDeliversItsPayload : Prop :=
  ∀ (p : List Byte) s rest, CoreInv s → s.resets = [] → s.busy = false → s.dstate = .idle →
    s.input = (unit p).map some ++ rest →
    (2 ≤ p.length → p.length ≤ 256 →
      ∃ t, runSteps ((unit p).length - 1) s = .next t ∧ t.busy = false ∧ t.dstate = .receiving ∧ t.cursor = p.length ∧
        t.fbRange p.length = p ∧ t.input = some 0xC0#8 :: rest ∧ t.out = s.out ∧ t.calls = s.calls ∧ t.rb = s.rb ∧
        step t = finish (exec (.decDeliver p.length) { t with input := rest, busy := true, ctl := [.closeFrame] })) ∧
    (p.length ≤ 1 →
      ∃ t, runSteps (unit p).length s = .next t ∧ t.busy = false ∧ t.dstate = .idle ∧ t.cursor = 0 ∧ t.input = rest ∧
        t.out = s.out ∧ t.calls = s.calls ∧ t.rb = s.rb)

/-- R240: a core in `Receiving` or `Escaped` at the first byte of a unit takes the whole unit without delivering anything and
ends in `Receiving` with `cursor = 0`. -/
def Obligations.OutOfPhaseCoreLosesEveryUnit : Prop :=
  ∀ (p : List Byte) s rest, CoreInv s → s.resets = [] → s.busy = false → s.dstate ≠ .idle →
    s.input = (unit p).map some ++ rest →
    ∃ t, runSteps (unit p).length s = .next t ∧ t.busy = false ∧ t.dstate = .receiving ∧ t.cursor = 0 ∧ t.input = rest ∧
      t.out = s.out ∧ t.calls = s.calls ∧ t.rb = s.rb ∧ t.replies = s.replies

/-- R173, R208(4), R178: a delivered frame with a wrong checksum is answered by the error unit 0x01, without a call. -/
def Obligations.BadChecksumIsAnsweredByTheErrorUnit : Prop :=
  ∀ s rest, CoreInv s → Willing s → s.busy = false → s.dstate = .receiving → 2 ≤ s.cursor → s.input = some 0xC0#8 :: rest →
    crc8 (s.fbRange (s.cursor - 1)) ≠ s.fbByte (s.cursor - 1) →
    ∃ t, Reaches s t ∧ t.busy = false ∧ t.dstate = .idle ∧ t.cursor = 0 ∧ t.input = rest ∧
      t.out = s.out ++ [0xDB#8, 0xDE#8, 0xC0#8, 0xFF#8, 0x01#8, 0xD0#8, 0xC0#8] ∧ t.calls = s.calls ∧ t.replies = s.replies ∧
      t.fb = s.fb

/-- R176, R178: a dispatcher that reports failure is answered by the error unit 0x02, after exactly one call, whatever
`response_len` and response bytes it gives (ignored, the spec's decision D27). -/
def Obligations.DispatchFailureIsAnsweredByTheErrorUnit : Prop :=
  ∀ s rest k r more, CoreInv s → Willing s → s.busy = false → s.dstate = .receiving → 2 ≤ s.cursor →
    s.input = some 0xC0#8 :: rest → crc8 (s.fbRange (s.cursor - 1)) = s.fbByte (s.cursor - 1) →
    NextReply s k r more → r.writesInContract = true → r.status = .failure →
    ∃ t, Reaches s t ∧ t.busy = false ∧ t.dstate = .idle ∧ t.cursor = 0 ∧ t.input = rest ∧
      t.out = s.out ++ [0xDB#8, 0xDE#8, 0xC0#8, 0xFF#8, 0x02#8, 0xD9#8, 0xC0#8] ∧
      t.calls = s.calls ++ [⟨s.fbRange (s.cursor - 1), s.cursor - 1, 255⟩] ∧ t.replies = more

/-- R175, R178: a successful response is sent as one unit with its checksum, after exactly one call. -/
def Obligations.SuccessIsAnsweredByTheResponseUnit : Prop :=
  ∀ s rest k r more, CoreInv s → Willing s → s.busy = false → s.dstate = .receiving → 2 ≤ s.cursor →
    s.input = some 0xC0#8 :: rest → crc8 (s.fbRange (s.cursor - 1)) = s.fbByte (s.cursor - 1) →
    NextReply s k r more → r.writesInContract = true → r.status = .success → r.responseLen ≤ 255 →
    ∃ t, Reaches s t ∧ t.busy = false ∧ t.dstate = .idle ∧ t.cursor = 0 ∧ t.input = rest ∧
      t.out = s.out ++ reqOf ((applyWrites r.writes s).rbRange r.responseLen) ∧
      t.calls = s.calls ++ [⟨s.fbRange (s.cursor - 1), s.cursor - 1, 255⟩] ∧ t.replies = more

/-- From `Idle`, the request unit of `a` is answered by the response's unit: one call, with `a`, its length and capacity 255
(R113 and R175 together; R81's `REQ`). -/
def Obligations.RequestUnitIsAnsweredEndToEnd : Prop :=
  ∀ (a : List Byte) s rest k r more, CoreInv s → Willing s → s.busy = false → s.dstate = .idle → 1 ≤ a.length →
    a.length ≤ 255 → s.input = (reqOf a).map some ++ rest → NextReply s k r more → r.writesInContract = true →
    r.status = .success → r.responseLen ≤ 255 →
    ∃ t, Reaches s t ∧ t.busy = false ∧ t.dstate = .idle ∧ t.cursor = 0 ∧ t.input = rest ∧
      t.out = s.out ++ reqOf ((applyWrites r.writes s).rbRange r.responseLen) ∧
      t.calls = s.calls ++ [⟨a, a.length, 255⟩] ∧ t.replies = more

/-- R203, R243, D26: with a sink that takes every byte after some delay and, where a call is outstanding, a dispatcher that
returns, a busy core becomes ready again, unless the dispatcher broke its duties. -/
def Obligations.BusyCoreBecomesReadyAgain : Prop :=
  ∀ s, CoreInv s → Willing s → s.busy = true → (Pending.awaitReply ∈ s.ctl → ∃ k r more, NextReply s k r more) →
    (∃ t, Reaches s t ∧ t.busy = false ∧ t.dstate = .idle ∧ t.cursor = 0 ∧ t.input = s.input) ∨
    (∃ n, runSteps n s = .fault .dispatchContractViolation)

/-- R30: two states that differ only in `FB[cursor ..)`, RB or `acc` while not busy cannot be told apart by any later input,
for dispatcher replies that write the response bytes they report (R55). -/
def Obligations.UnusedBufferBytesAreUnobservable : Prop :=
  ∀ s t n, CoreInv s → CoreInv t → s.busy = false → RepliesCover s →
    t = { s with fb := t.fb, rb := t.rb, acc := t.acc } → (∀ i, i < s.cursor → t.fbByte i = s.fbByte i) →
    seen (runSteps n t) = seen (runSteps n s)
end

