-- ==== Sys2Proof/Laws/State.lean ====
section
/-! SUPPORT. One lemma per field per update: what each named update of State leaves in each field. -/

namespace Sys2Proof.Machine

@[simp] theorem writeFB_dstate (i : Nat) (v : Byte) (s : State) : (writeFB i v s).dstate = s.dstate := rfl
@[simp] theorem writeFB_cursor (i : Nat) (v : Byte) (s : State) : (writeFB i v s).cursor = s.cursor := rfl
@[simp] theorem writeFB_fb (i : Nat) (v : Byte) (s : State) : (writeFB i v s).fb = s.fb.write i v := rfl
@[simp] theorem writeFB_rb (i : Nat) (v : Byte) (s : State) : (writeFB i v s).rb = s.rb := rfl
@[simp] theorem writeFB_acc (i : Nat) (v : Byte) (s : State) : (writeFB i v s).acc = s.acc := rfl
@[simp] theorem writeFB_busy (i : Nat) (v : Byte) (s : State) : (writeFB i v s).busy = s.busy := rfl
@[simp] theorem writeFB_frameLen (i : Nat) (v : Byte) (s : State) : (writeFB i v s).frameLen = s.frameLen := rfl
@[simp] theorem writeFB_received (i : Nat) (v : Byte) (s : State) : (writeFB i v s).received = s.received := rfl
@[simp] theorem writeFB_expected (i : Nat) (v : Byte) (s : State) : (writeFB i v s).expected = s.expected := rfl
@[simp] theorem writeFB_matched (i : Nat) (v : Byte) (s : State) : (writeFB i v s).matched = s.matched := rfl
@[simp] theorem writeFB_status (i : Nat) (v : Byte) (s : State) : (writeFB i v s).status = s.status := rfl
@[simp] theorem writeFB_responseLen (i : Nat) (v : Byte) (s : State) : (writeFB i v s).responseLen = s.responseLen := rfl
@[simp] theorem writeFB_ctl (i : Nat) (v : Byte) (s : State) : (writeFB i v s).ctl = s.ctl := rfl
@[simp] theorem writeFB_emitting (i : Nat) (v : Byte) (s : State) : (writeFB i v s).emitting = s.emitting := rfl
@[simp] theorem writeFB_input (i : Nat) (v : Byte) (s : State) : (writeFB i v s).input = s.input := rfl
@[simp] theorem writeFB_out (i : Nat) (v : Byte) (s : State) : (writeFB i v s).out = s.out := rfl
@[simp] theorem writeFB_calls (i : Nat) (v : Byte) (s : State) : (writeFB i v s).calls = s.calls := rfl
@[simp] theorem writeFB_replies (i : Nat) (v : Byte) (s : State) : (writeFB i v s).replies = s.replies := rfl
@[simp] theorem writeFB_sink (i : Nat) (v : Byte) (s : State) : (writeFB i v s).sink = s.sink := rfl
@[simp] theorem writeFB_sinkOpen (i : Nat) (v : Byte) (s : State) : (writeFB i v s).sinkOpen = s.sinkOpen := rfl
@[simp] theorem writeFB_resets (i : Nat) (v : Byte) (s : State) : (writeFB i v s).resets = s.resets := rfl
@[simp] theorem writeFB_epoch (i : Nat) (v : Byte) (s : State) : (writeFB i v s).epoch = s.epoch := rfl

@[simp] theorem writeRB_dstate (i : Nat) (v : Byte) (s : State) : (writeRB i v s).dstate = s.dstate := rfl
@[simp] theorem writeRB_cursor (i : Nat) (v : Byte) (s : State) : (writeRB i v s).cursor = s.cursor := rfl
@[simp] theorem writeRB_fb (i : Nat) (v : Byte) (s : State) : (writeRB i v s).fb = s.fb := rfl
@[simp] theorem writeRB_rb (i : Nat) (v : Byte) (s : State) : (writeRB i v s).rb = s.rb.write i v := rfl
@[simp] theorem writeRB_acc (i : Nat) (v : Byte) (s : State) : (writeRB i v s).acc = s.acc := rfl
@[simp] theorem writeRB_busy (i : Nat) (v : Byte) (s : State) : (writeRB i v s).busy = s.busy := rfl
@[simp] theorem writeRB_frameLen (i : Nat) (v : Byte) (s : State) : (writeRB i v s).frameLen = s.frameLen := rfl
@[simp] theorem writeRB_received (i : Nat) (v : Byte) (s : State) : (writeRB i v s).received = s.received := rfl
@[simp] theorem writeRB_expected (i : Nat) (v : Byte) (s : State) : (writeRB i v s).expected = s.expected := rfl
@[simp] theorem writeRB_matched (i : Nat) (v : Byte) (s : State) : (writeRB i v s).matched = s.matched := rfl
@[simp] theorem writeRB_status (i : Nat) (v : Byte) (s : State) : (writeRB i v s).status = s.status := rfl
@[simp] theorem writeRB_responseLen (i : Nat) (v : Byte) (s : State) : (writeRB i v s).responseLen = s.responseLen := rfl
@[simp] theorem writeRB_ctl (i : Nat) (v : Byte) (s : State) : (writeRB i v s).ctl = s.ctl := rfl
@[simp] theorem writeRB_emitting (i : Nat) (v : Byte) (s : State) : (writeRB i v s).emitting = s.emitting := rfl
@[simp] theorem writeRB_input (i : Nat) (v : Byte) (s : State) : (writeRB i v s).input = s.input := rfl
@[simp] theorem writeRB_out (i : Nat) (v : Byte) (s : State) : (writeRB i v s).out = s.out := rfl
@[simp] theorem writeRB_calls (i : Nat) (v : Byte) (s : State) : (writeRB i v s).calls = s.calls := rfl
@[simp] theorem writeRB_replies (i : Nat) (v : Byte) (s : State) : (writeRB i v s).replies = s.replies := rfl
@[simp] theorem writeRB_sink (i : Nat) (v : Byte) (s : State) : (writeRB i v s).sink = s.sink := rfl
@[simp] theorem writeRB_sinkOpen (i : Nat) (v : Byte) (s : State) : (writeRB i v s).sinkOpen = s.sinkOpen := rfl
@[simp] theorem writeRB_resets (i : Nat) (v : Byte) (s : State) : (writeRB i v s).resets = s.resets := rfl
@[simp] theorem writeRB_epoch (i : Nat) (v : Byte) (s : State) : (writeRB i v s).epoch = s.epoch := rfl

@[simp] theorem resetBuffer_dstate (s : State) : (resetBuffer s).dstate = s.dstate := rfl
@[simp] theorem resetBuffer_cursor (s : State) : (resetBuffer s).cursor = 0 := rfl
@[simp] theorem resetBuffer_fb (s : State) : (resetBuffer s).fb = s.fb := rfl
@[simp] theorem resetBuffer_rb (s : State) : (resetBuffer s).rb = s.rb := rfl
@[simp] theorem resetBuffer_acc (s : State) : (resetBuffer s).acc = s.acc := rfl
@[simp] theorem resetBuffer_busy (s : State) : (resetBuffer s).busy = s.busy := rfl
@[simp] theorem resetBuffer_frameLen (s : State) : (resetBuffer s).frameLen = s.frameLen := rfl
@[simp] theorem resetBuffer_received (s : State) : (resetBuffer s).received = s.received := rfl
@[simp] theorem resetBuffer_expected (s : State) : (resetBuffer s).expected = s.expected := rfl
@[simp] theorem resetBuffer_matched (s : State) : (resetBuffer s).matched = s.matched := rfl
@[simp] theorem resetBuffer_status (s : State) : (resetBuffer s).status = s.status := rfl
@[simp] theorem resetBuffer_responseLen (s : State) : (resetBuffer s).responseLen = s.responseLen := rfl
@[simp] theorem resetBuffer_ctl (s : State) : (resetBuffer s).ctl = s.ctl := rfl
@[simp] theorem resetBuffer_emitting (s : State) : (resetBuffer s).emitting = s.emitting := rfl
@[simp] theorem resetBuffer_input (s : State) : (resetBuffer s).input = s.input := rfl
@[simp] theorem resetBuffer_out (s : State) : (resetBuffer s).out = s.out := rfl
@[simp] theorem resetBuffer_calls (s : State) : (resetBuffer s).calls = s.calls := rfl
@[simp] theorem resetBuffer_replies (s : State) : (resetBuffer s).replies = s.replies := rfl
@[simp] theorem resetBuffer_sink (s : State) : (resetBuffer s).sink = s.sink := rfl
@[simp] theorem resetBuffer_sinkOpen (s : State) : (resetBuffer s).sinkOpen = s.sinkOpen := rfl
@[simp] theorem resetBuffer_resets (s : State) : (resetBuffer s).resets = s.resets := rfl
@[simp] theorem resetBuffer_epoch (s : State) : (resetBuffer s).epoch = s.epoch := rfl

@[simp] theorem setDState_dstate (d : DState) (s : State) : (setDState d s).dstate = d := rfl
@[simp] theorem setDState_cursor (d : DState) (s : State) : (setDState d s).cursor = s.cursor := rfl
@[simp] theorem setDState_fb (d : DState) (s : State) : (setDState d s).fb = s.fb := rfl
@[simp] theorem setDState_rb (d : DState) (s : State) : (setDState d s).rb = s.rb := rfl
@[simp] theorem setDState_acc (d : DState) (s : State) : (setDState d s).acc = s.acc := rfl
@[simp] theorem setDState_busy (d : DState) (s : State) : (setDState d s).busy = s.busy := rfl
@[simp] theorem setDState_frameLen (d : DState) (s : State) : (setDState d s).frameLen = s.frameLen := rfl
@[simp] theorem setDState_received (d : DState) (s : State) : (setDState d s).received = s.received := rfl
@[simp] theorem setDState_expected (d : DState) (s : State) : (setDState d s).expected = s.expected := rfl
@[simp] theorem setDState_matched (d : DState) (s : State) : (setDState d s).matched = s.matched := rfl
@[simp] theorem setDState_status (d : DState) (s : State) : (setDState d s).status = s.status := rfl
@[simp] theorem setDState_responseLen (d : DState) (s : State) : (setDState d s).responseLen = s.responseLen := rfl
@[simp] theorem setDState_ctl (d : DState) (s : State) : (setDState d s).ctl = s.ctl := rfl
@[simp] theorem setDState_emitting (d : DState) (s : State) : (setDState d s).emitting = s.emitting := rfl
@[simp] theorem setDState_input (d : DState) (s : State) : (setDState d s).input = s.input := rfl
@[simp] theorem setDState_out (d : DState) (s : State) : (setDState d s).out = s.out := rfl
@[simp] theorem setDState_calls (d : DState) (s : State) : (setDState d s).calls = s.calls := rfl
@[simp] theorem setDState_replies (d : DState) (s : State) : (setDState d s).replies = s.replies := rfl
@[simp] theorem setDState_sink (d : DState) (s : State) : (setDState d s).sink = s.sink := rfl
@[simp] theorem setDState_sinkOpen (d : DState) (s : State) : (setDState d s).sinkOpen = s.sinkOpen := rfl
@[simp] theorem setDState_resets (d : DState) (s : State) : (setDState d s).resets = s.resets := rfl
@[simp] theorem setDState_epoch (d : DState) (s : State) : (setDState d s).epoch = s.epoch := rfl

@[simp] theorem clearAcc_dstate (s : State) : (clearAcc s).dstate = s.dstate := rfl
@[simp] theorem clearAcc_cursor (s : State) : (clearAcc s).cursor = s.cursor := rfl
@[simp] theorem clearAcc_fb (s : State) : (clearAcc s).fb = s.fb := rfl
@[simp] theorem clearAcc_rb (s : State) : (clearAcc s).rb = s.rb := rfl
@[simp] theorem clearAcc_acc (s : State) : (clearAcc s).acc = Config.init := rfl
@[simp] theorem clearAcc_busy (s : State) : (clearAcc s).busy = s.busy := rfl
@[simp] theorem clearAcc_frameLen (s : State) : (clearAcc s).frameLen = s.frameLen := rfl
@[simp] theorem clearAcc_received (s : State) : (clearAcc s).received = s.received := rfl
@[simp] theorem clearAcc_expected (s : State) : (clearAcc s).expected = s.expected := rfl
@[simp] theorem clearAcc_matched (s : State) : (clearAcc s).matched = s.matched := rfl
@[simp] theorem clearAcc_status (s : State) : (clearAcc s).status = s.status := rfl
@[simp] theorem clearAcc_responseLen (s : State) : (clearAcc s).responseLen = s.responseLen := rfl
@[simp] theorem clearAcc_ctl (s : State) : (clearAcc s).ctl = s.ctl := rfl
@[simp] theorem clearAcc_emitting (s : State) : (clearAcc s).emitting = s.emitting := rfl
@[simp] theorem clearAcc_input (s : State) : (clearAcc s).input = s.input := rfl
@[simp] theorem clearAcc_out (s : State) : (clearAcc s).out = s.out := rfl
@[simp] theorem clearAcc_calls (s : State) : (clearAcc s).calls = s.calls := rfl
@[simp] theorem clearAcc_replies (s : State) : (clearAcc s).replies = s.replies := rfl
@[simp] theorem clearAcc_sink (s : State) : (clearAcc s).sink = s.sink := rfl
@[simp] theorem clearAcc_sinkOpen (s : State) : (clearAcc s).sinkOpen = s.sinkOpen := rfl
@[simp] theorem clearAcc_resets (s : State) : (clearAcc s).resets = s.resets := rfl
@[simp] theorem clearAcc_epoch (s : State) : (clearAcc s).epoch = s.epoch := rfl

@[simp] theorem stepAcc_dstate (b : Byte) (s : State) : (stepAcc b s).dstate = s.dstate := rfl
@[simp] theorem stepAcc_cursor (b : Byte) (s : State) : (stepAcc b s).cursor = s.cursor := rfl
@[simp] theorem stepAcc_fb (b : Byte) (s : State) : (stepAcc b s).fb = s.fb := rfl
@[simp] theorem stepAcc_rb (b : Byte) (s : State) : (stepAcc b s).rb = s.rb := rfl
@[simp] theorem stepAcc_acc (b : Byte) (s : State) : (stepAcc b s).acc = crcAbsorb s.acc b := rfl
@[simp] theorem stepAcc_busy (b : Byte) (s : State) : (stepAcc b s).busy = s.busy := rfl
@[simp] theorem stepAcc_frameLen (b : Byte) (s : State) : (stepAcc b s).frameLen = s.frameLen := rfl
@[simp] theorem stepAcc_received (b : Byte) (s : State) : (stepAcc b s).received = s.received := rfl
@[simp] theorem stepAcc_expected (b : Byte) (s : State) : (stepAcc b s).expected = s.expected := rfl
@[simp] theorem stepAcc_matched (b : Byte) (s : State) : (stepAcc b s).matched = s.matched := rfl
@[simp] theorem stepAcc_status (b : Byte) (s : State) : (stepAcc b s).status = s.status := rfl
@[simp] theorem stepAcc_responseLen (b : Byte) (s : State) : (stepAcc b s).responseLen = s.responseLen := rfl
@[simp] theorem stepAcc_ctl (b : Byte) (s : State) : (stepAcc b s).ctl = s.ctl := rfl
@[simp] theorem stepAcc_emitting (b : Byte) (s : State) : (stepAcc b s).emitting = s.emitting := rfl
@[simp] theorem stepAcc_input (b : Byte) (s : State) : (stepAcc b s).input = s.input := rfl
@[simp] theorem stepAcc_out (b : Byte) (s : State) : (stepAcc b s).out = s.out := rfl
@[simp] theorem stepAcc_calls (b : Byte) (s : State) : (stepAcc b s).calls = s.calls := rfl
@[simp] theorem stepAcc_replies (b : Byte) (s : State) : (stepAcc b s).replies = s.replies := rfl
@[simp] theorem stepAcc_sink (b : Byte) (s : State) : (stepAcc b s).sink = s.sink := rfl
@[simp] theorem stepAcc_sinkOpen (b : Byte) (s : State) : (stepAcc b s).sinkOpen = s.sinkOpen := rfl
@[simp] theorem stepAcc_resets (b : Byte) (s : State) : (stepAcc b s).resets = s.resets := rfl
@[simp] theorem stepAcc_epoch (b : Byte) (s : State) : (stepAcc b s).epoch = s.epoch := rfl

@[simp] theorem emit_dstate (bs : List Byte) (s : State) : (emit bs s).dstate = s.dstate := rfl
@[simp] theorem emit_cursor (bs : List Byte) (s : State) : (emit bs s).cursor = s.cursor := rfl
@[simp] theorem emit_fb (bs : List Byte) (s : State) : (emit bs s).fb = s.fb := rfl
@[simp] theorem emit_rb (bs : List Byte) (s : State) : (emit bs s).rb = s.rb := rfl
@[simp] theorem emit_acc (bs : List Byte) (s : State) : (emit bs s).acc = s.acc := rfl
@[simp] theorem emit_busy (bs : List Byte) (s : State) : (emit bs s).busy = s.busy := rfl
@[simp] theorem emit_frameLen (bs : List Byte) (s : State) : (emit bs s).frameLen = s.frameLen := rfl
@[simp] theorem emit_received (bs : List Byte) (s : State) : (emit bs s).received = s.received := rfl
@[simp] theorem emit_expected (bs : List Byte) (s : State) : (emit bs s).expected = s.expected := rfl
@[simp] theorem emit_matched (bs : List Byte) (s : State) : (emit bs s).matched = s.matched := rfl
@[simp] theorem emit_status (bs : List Byte) (s : State) : (emit bs s).status = s.status := rfl
@[simp] theorem emit_responseLen (bs : List Byte) (s : State) : (emit bs s).responseLen = s.responseLen := rfl
@[simp] theorem emit_ctl (bs : List Byte) (s : State) : (emit bs s).ctl = s.ctl := rfl
@[simp] theorem emit_emitting (bs : List Byte) (s : State) : (emit bs s).emitting = s.emitting ++ bs := rfl
@[simp] theorem emit_input (bs : List Byte) (s : State) : (emit bs s).input = s.input := rfl
@[simp] theorem emit_out (bs : List Byte) (s : State) : (emit bs s).out = s.out := rfl
@[simp] theorem emit_calls (bs : List Byte) (s : State) : (emit bs s).calls = s.calls := rfl
@[simp] theorem emit_replies (bs : List Byte) (s : State) : (emit bs s).replies = s.replies := rfl
@[simp] theorem emit_sink (bs : List Byte) (s : State) : (emit bs s).sink = s.sink := rfl
@[simp] theorem emit_sinkOpen (bs : List Byte) (s : State) : (emit bs s).sinkOpen = s.sinkOpen := rfl
@[simp] theorem emit_resets (bs : List Byte) (s : State) : (emit bs s).resets = s.resets := rfl
@[simp] theorem emit_epoch (bs : List Byte) (s : State) : (emit bs s).epoch = s.epoch := rfl

@[simp] theorem push_dstate (p : Pending) (s : State) : (push p s).dstate = s.dstate := rfl
@[simp] theorem push_cursor (p : Pending) (s : State) : (push p s).cursor = s.cursor := rfl
@[simp] theorem push_fb (p : Pending) (s : State) : (push p s).fb = s.fb := rfl
@[simp] theorem push_rb (p : Pending) (s : State) : (push p s).rb = s.rb := rfl
@[simp] theorem push_acc (p : Pending) (s : State) : (push p s).acc = s.acc := rfl
@[simp] theorem push_busy (p : Pending) (s : State) : (push p s).busy = s.busy := rfl
@[simp] theorem push_frameLen (p : Pending) (s : State) : (push p s).frameLen = s.frameLen := rfl
@[simp] theorem push_received (p : Pending) (s : State) : (push p s).received = s.received := rfl
@[simp] theorem push_expected (p : Pending) (s : State) : (push p s).expected = s.expected := rfl
@[simp] theorem push_matched (p : Pending) (s : State) : (push p s).matched = s.matched := rfl
@[simp] theorem push_status (p : Pending) (s : State) : (push p s).status = s.status := rfl
@[simp] theorem push_responseLen (p : Pending) (s : State) : (push p s).responseLen = s.responseLen := rfl
@[simp] theorem push_ctl (p : Pending) (s : State) : (push p s).ctl = p :: s.ctl := rfl
@[simp] theorem push_emitting (p : Pending) (s : State) : (push p s).emitting = s.emitting := rfl
@[simp] theorem push_input (p : Pending) (s : State) : (push p s).input = s.input := rfl
@[simp] theorem push_out (p : Pending) (s : State) : (push p s).out = s.out := rfl
@[simp] theorem push_calls (p : Pending) (s : State) : (push p s).calls = s.calls := rfl
@[simp] theorem push_replies (p : Pending) (s : State) : (push p s).replies = s.replies := rfl
@[simp] theorem push_sink (p : Pending) (s : State) : (push p s).sink = s.sink := rfl
@[simp] theorem push_sinkOpen (p : Pending) (s : State) : (push p s).sinkOpen = s.sinkOpen := rfl
@[simp] theorem push_resets (p : Pending) (s : State) : (push p s).resets = s.resets := rfl
@[simp] theorem push_epoch (p : Pending) (s : State) : (push p s).epoch = s.epoch := rfl

@[simp] theorem logCall_dstate (c : Call) (s : State) : (logCall c s).dstate = s.dstate := rfl
@[simp] theorem logCall_cursor (c : Call) (s : State) : (logCall c s).cursor = s.cursor := rfl
@[simp] theorem logCall_fb (c : Call) (s : State) : (logCall c s).fb = s.fb := rfl
@[simp] theorem logCall_rb (c : Call) (s : State) : (logCall c s).rb = s.rb := rfl
@[simp] theorem logCall_acc (c : Call) (s : State) : (logCall c s).acc = s.acc := rfl
@[simp] theorem logCall_busy (c : Call) (s : State) : (logCall c s).busy = s.busy := rfl
@[simp] theorem logCall_frameLen (c : Call) (s : State) : (logCall c s).frameLen = s.frameLen := rfl
@[simp] theorem logCall_received (c : Call) (s : State) : (logCall c s).received = s.received := rfl
@[simp] theorem logCall_expected (c : Call) (s : State) : (logCall c s).expected = s.expected := rfl
@[simp] theorem logCall_matched (c : Call) (s : State) : (logCall c s).matched = s.matched := rfl
@[simp] theorem logCall_status (c : Call) (s : State) : (logCall c s).status = s.status := rfl
@[simp] theorem logCall_responseLen (c : Call) (s : State) : (logCall c s).responseLen = s.responseLen := rfl
@[simp] theorem logCall_ctl (c : Call) (s : State) : (logCall c s).ctl = s.ctl := rfl
@[simp] theorem logCall_emitting (c : Call) (s : State) : (logCall c s).emitting = s.emitting := rfl
@[simp] theorem logCall_input (c : Call) (s : State) : (logCall c s).input = s.input := rfl
@[simp] theorem logCall_out (c : Call) (s : State) : (logCall c s).out = s.out := rfl
@[simp] theorem logCall_calls (c : Call) (s : State) : (logCall c s).calls = s.calls ++ [c] := rfl
@[simp] theorem logCall_replies (c : Call) (s : State) : (logCall c s).replies = s.replies := rfl
@[simp] theorem logCall_sink (c : Call) (s : State) : (logCall c s).sink = s.sink := rfl
@[simp] theorem logCall_sinkOpen (c : Call) (s : State) : (logCall c s).sinkOpen = s.sinkOpen := rfl
@[simp] theorem logCall_resets (c : Call) (s : State) : (logCall c s).resets = s.resets := rfl
@[simp] theorem logCall_epoch (c : Call) (s : State) : (logCall c s).epoch = s.epoch := rfl

@[simp] theorem takeInput_dstate (r : List (Option Byte)) (s : State) : (takeInput r s).dstate = s.dstate := rfl
@[simp] theorem takeInput_cursor (r : List (Option Byte)) (s : State) : (takeInput r s).cursor = s.cursor := rfl
@[simp] theorem takeInput_fb (r : List (Option Byte)) (s : State) : (takeInput r s).fb = s.fb := rfl
@[simp] theorem takeInput_rb (r : List (Option Byte)) (s : State) : (takeInput r s).rb = s.rb := rfl
@[simp] theorem takeInput_acc (r : List (Option Byte)) (s : State) : (takeInput r s).acc = s.acc := rfl
@[simp] theorem takeInput_busy (r : List (Option Byte)) (s : State) : (takeInput r s).busy = true := rfl
@[simp] theorem takeInput_frameLen (r : List (Option Byte)) (s : State) : (takeInput r s).frameLen = s.frameLen := rfl
@[simp] theorem takeInput_received (r : List (Option Byte)) (s : State) : (takeInput r s).received = s.received := rfl
@[simp] theorem takeInput_expected (r : List (Option Byte)) (s : State) : (takeInput r s).expected = s.expected := rfl
@[simp] theorem takeInput_matched (r : List (Option Byte)) (s : State) : (takeInput r s).matched = s.matched := rfl
@[simp] theorem takeInput_status (r : List (Option Byte)) (s : State) : (takeInput r s).status = s.status := rfl
@[simp] theorem takeInput_responseLen (r : List (Option Byte)) (s : State) : (takeInput r s).responseLen = s.responseLen := rfl
@[simp] theorem takeInput_ctl (r : List (Option Byte)) (s : State) : (takeInput r s).ctl = s.ctl := rfl
@[simp] theorem takeInput_emitting (r : List (Option Byte)) (s : State) : (takeInput r s).emitting = s.emitting := rfl
@[simp] theorem takeInput_input (r : List (Option Byte)) (s : State) : (takeInput r s).input = r := rfl
@[simp] theorem takeInput_out (r : List (Option Byte)) (s : State) : (takeInput r s).out = s.out := rfl
@[simp] theorem takeInput_calls (r : List (Option Byte)) (s : State) : (takeInput r s).calls = s.calls := rfl
@[simp] theorem takeInput_replies (r : List (Option Byte)) (s : State) : (takeInput r s).replies = s.replies := rfl
@[simp] theorem takeInput_sink (r : List (Option Byte)) (s : State) : (takeInput r s).sink = s.sink := rfl
@[simp] theorem takeInput_sinkOpen (r : List (Option Byte)) (s : State) : (takeInput r s).sinkOpen = s.sinkOpen := rfl
@[simp] theorem takeInput_resets (r : List (Option Byte)) (s : State) : (takeInput r s).resets = s.resets := rfl
@[simp] theorem takeInput_epoch (r : List (Option Byte)) (s : State) : (takeInput r s).epoch = s.epoch := rfl

@[simp] theorem sinkTakes_dstate (b : Byte) (bs : List Byte) (s : State) : (sinkTakes b bs s).dstate = s.dstate := rfl
@[simp] theorem sinkTakes_cursor (b : Byte) (bs : List Byte) (s : State) : (sinkTakes b bs s).cursor = s.cursor := rfl
@[simp] theorem sinkTakes_fb (b : Byte) (bs : List Byte) (s : State) : (sinkTakes b bs s).fb = s.fb := rfl
@[simp] theorem sinkTakes_rb (b : Byte) (bs : List Byte) (s : State) : (sinkTakes b bs s).rb = s.rb := rfl
@[simp] theorem sinkTakes_acc (b : Byte) (bs : List Byte) (s : State) : (sinkTakes b bs s).acc = s.acc := rfl
@[simp] theorem sinkTakes_busy (b : Byte) (bs : List Byte) (s : State) : (sinkTakes b bs s).busy = s.busy := rfl
@[simp] theorem sinkTakes_frameLen (b : Byte) (bs : List Byte) (s : State) : (sinkTakes b bs s).frameLen = s.frameLen := rfl
@[simp] theorem sinkTakes_received (b : Byte) (bs : List Byte) (s : State) : (sinkTakes b bs s).received = s.received := rfl
@[simp] theorem sinkTakes_expected (b : Byte) (bs : List Byte) (s : State) : (sinkTakes b bs s).expected = s.expected := rfl
@[simp] theorem sinkTakes_matched (b : Byte) (bs : List Byte) (s : State) : (sinkTakes b bs s).matched = s.matched := rfl
@[simp] theorem sinkTakes_status (b : Byte) (bs : List Byte) (s : State) : (sinkTakes b bs s).status = s.status := rfl
@[simp] theorem sinkTakes_responseLen (b : Byte) (bs : List Byte) (s : State) : (sinkTakes b bs s).responseLen = s.responseLen := rfl
@[simp] theorem sinkTakes_ctl (b : Byte) (bs : List Byte) (s : State) : (sinkTakes b bs s).ctl = s.ctl := rfl
@[simp] theorem sinkTakes_emitting (b : Byte) (bs : List Byte) (s : State) : (sinkTakes b bs s).emitting = bs := rfl
@[simp] theorem sinkTakes_input (b : Byte) (bs : List Byte) (s : State) : (sinkTakes b bs s).input = s.input := rfl
@[simp] theorem sinkTakes_out (b : Byte) (bs : List Byte) (s : State) : (sinkTakes b bs s).out = s.out ++ [b] := rfl
@[simp] theorem sinkTakes_calls (b : Byte) (bs : List Byte) (s : State) : (sinkTakes b bs s).calls = s.calls := rfl
@[simp] theorem sinkTakes_replies (b : Byte) (bs : List Byte) (s : State) : (sinkTakes b bs s).replies = s.replies := rfl
@[simp] theorem sinkTakes_sink (b : Byte) (bs : List Byte) (s : State) : (sinkTakes b bs s).sink = s.sink := rfl
@[simp] theorem sinkTakes_sinkOpen (b : Byte) (bs : List Byte) (s : State) : (sinkTakes b bs s).sinkOpen = s.sinkOpen := rfl
@[simp] theorem sinkTakes_resets (b : Byte) (bs : List Byte) (s : State) : (sinkTakes b bs s).resets = s.resets := rfl
@[simp] theorem sinkTakes_epoch (b : Byte) (bs : List Byte) (s : State) : (sinkTakes b bs s).epoch = s.epoch := rfl

end Sys2Proof.Machine
end

