-- ==== Sys2Proof/Laws/Memory.lean ====
section
/-! SUPPORT. The laws of the two buffers: read after write, and that a write keeps the canonical form. -/

namespace Sys2Proof.Machine

open Config

@[simp] theorem Memory.read?_write_same (m : Memory) (a : Nat) (v : Byte) : (m.write a v).read? a = some v := by
  induction m with
  | nil => simp [Memory.write, Memory.read?]
  | cons c rest ih =>
    obtain ⟨b, w⟩ := c
    unfold Memory.write
    split
    · simp [Memory.read?]
    · split
      · simp [Memory.read?]
      · simp [Memory.read?, *]

theorem Memory.read?_write_ne (m : Memory) {a b : Nat} (v : Byte) (h : a ≠ b) :
    (m.write b v).read? a = m.read? a := by
  induction m with
  | nil => simp [Memory.write, Memory.read?, h]
  | cons c rest ih =>
    obtain ⟨d, w⟩ := c
    unfold Memory.write
    split
    · simp [Memory.read?, h]
    · split
      next hbd => subst hbd; simp [Memory.read?, h]
      next => simp only [Memory.read?, ih]

theorem Memory.wfFrom_write {cap : Nat} (m : Memory) {lo a : Nat} (v : Byte) (ha : lo ≤ a) (hc : a < cap)
    (h : Memory.wfFrom cap lo m = true) : Memory.wfFrom cap lo (m.write a v) = true := by
  induction m generalizing lo with
  | nil => simp [Memory.write, Memory.wfFrom, ha, hc]
  | cons c rest ih =>
    obtain ⟨b, w⟩ := c
    simp only [Memory.wfFrom, Bool.and_eq_true, decide_eq_true_eq] at h
    unfold Memory.write
    split
    next hab => simp [Memory.wfFrom, ha, hc, h]; omega
    next hab =>
      split
      next heq => subst heq; simp [Memory.wfFrom, h]
      next hne => simp only [Memory.wfFrom, Bool.and_eq_true, decide_eq_true_eq]; exact ⟨h.1, ih (by omega) h.2⟩

/-- A write inside the buffer keeps the canonical form. -/
theorem Memory.wf_write {cap : Nat} {m : Memory} {a : Nat} (v : Byte) (hc : a < cap) (h : m.wf cap = true) :
    (m.write a v).wf cap = true := Memory.wfFrom_write m v (Nat.zero_le a) hc h

@[simp] theorem Memory.wf_nil (cap : Nat) : Memory.wf cap [] = true := rfl

/-! ## Bytes of the buffers -/

@[simp] theorem fbByte_writeFB_same (i : Nat) (v : Byte) (s : State) : (writeFB i v s).fbByte i = v := by
  simp [State.fbByte]

theorem fbByte_writeFB_ne {a i : Nat} (v : Byte) (s : State) (h : a ≠ i) : (writeFB i v s).fbByte a = s.fbByte a := by
  simp [State.fbByte, Memory.read?_write_ne _ v h]

@[simp] theorem rbByte_writeRB_same (i : Nat) (v : Byte) (s : State) : (writeRB i v s).rbByte i = v := by
  simp [State.rbByte]

theorem rbByte_writeRB_ne {a i : Nat} (v : Byte) (s : State) (h : a ≠ i) : (writeRB i v s).rbByte a = s.rbByte a := by
  simp [State.rbByte, Memory.read?_write_ne _ v h]

/-- FB's bytes depend on FB and the reset they count from only. -/
theorem fbByte_congr {s t : State} (hm : t.fb = s.fb) (he : t.epoch = s.epoch) (i : Nat) : t.fbByte i = s.fbByte i := by
  simp [State.fbByte, hm, he]

theorem rbByte_congr {s t : State} (hm : t.rb = s.rb) (he : t.epoch = s.epoch) (i : Nat) : t.rbByte i = s.rbByte i := by
  simp [State.rbByte, hm, he]

@[simp] theorem fbRange_length (s : State) (n : Nat) : (s.fbRange n).length = n := by simp [State.fbRange]

@[simp] theorem rbRange_length (s : State) (n : Nat) : (s.rbRange n).length = n := by simp [State.rbRange]

theorem fbRange_succ (s : State) (n : Nat) : s.fbRange (n + 1) = s.fbRange n ++ [s.fbByte n] := by
  simp [State.fbRange, List.range_succ]

theorem rbRange_succ (s : State) (n : Nat) : s.rbRange (n + 1) = s.rbRange n ++ [s.rbByte n] := by
  simp [State.rbRange, List.range_succ]

theorem fbRange_congr {s t : State} {n : Nat} (h : ∀ i, i < n → t.fbByte i = s.fbByte i) : t.fbRange n = s.fbRange n := by
  simp only [State.fbRange]
  exact List.map_congr_left fun i hi => h i (List.mem_range.mp hi)

theorem rbRange_congr {s t : State} {n : Nat} (h : ∀ i, i < n → t.rbByte i = s.rbByte i) : t.rbRange n = s.rbRange n := by
  simp only [State.rbRange]
  exact List.map_congr_left fun i hi => h i (List.mem_range.mp hi)

end Sys2Proof.Machine
end

