-- ==== Sys2Proof/Laws/Ops.lean ====
section
/-! SUPPORT. One lemma per shared operation that says everything it does; proofs cite these and do not unfold it. -/

namespace Sys2Proof.Machine

open Config

/-! ## Sequencing -/

@[simp] theorem andThen_next (s : State) (f : State → Result) : andThen (.next s) f = f s := rfl

@[simp] theorem andThen_fault (r : Fault) (f : State → Result) : andThen (.fault r) f = .fault r := rfl

@[simp] theorem andThen_refused (r : Refusal) (f : State → Result) : andThen (.refused r) f = .refused r := rfl

theorem andThen_eq_next {o : Result} {f : State → Result} {t : State} (h : andThen o f = .next t) :
    ∃ s, o = .next s ∧ f s = .next t := by
  cases o with
  | next s => exact ⟨s, rfl, h⟩
  | fault r => cases h
  | refused r => cases h

theorem andThen_assoc (o : Result) (f g : State → Result) :
    andThen (andThen o f) g = andThen o fun s => andThen (f s) g := by
  cases o <;> rfl

/-! ## The checksum -/

theorem foldl_stepAcc (x : List Byte) (s : State) :
    x.foldl (fun t b => stepAcc b t) s = { s with acc := x.foldl crcAbsorb s.acc } := by
  induction x generalizing s with
  | nil => rfl
  | cons b x ih => simp only [List.foldl_cons, ih]; rfl

/-- A checksum computation writes `acc` and nothing else, and its result depends on the bytes alone. -/
theorem runChecksum_eq (x : List Byte) (s : State) : runChecksum x s = { s with acc := crc8 x } := by
  simp only [runChecksum, foldl_stepAcc]; rfl

theorem crc8_append (x y : List Byte) : crc8 (x ++ y) = y.foldl crcAbsorb (crc8 x) := by
  simp [crc8, List.foldl_append]

/-- The checksum of the error payload of code 0x01 (R76). -/
theorem crc8_errChecksum : crc8 [0xFF#8, 0x01#8] = 0xD0#8 := by decide +kernel

/-- The checksum of the error payload of code 0x02 (R76). -/
theorem crc8_errDispatch : crc8 [0xFF#8, 0x02#8] = 0xD9#8 := by decide +kernel

/-! ## The encoder's loop -/

@[simp] theorem emit_emit (xs ys : List Byte) (s : State) : emit ys (emit xs s) = emit (xs ++ ys) s := by
  simp [emit, List.append_assoc]

@[simp] theorem emit_nil (s : State) : emit [] s = s := by simp [emit]

theorem sendByte_eq (c : Byte) (s : State) : sendByte c s = .next (emit (escapeOf c) s) := by
  unfold sendByte escapeOf
  split
  · rfl
  · split <;> rfl

@[simp] theorem esc_nil : esc [] = [] := rfl

@[simp] theorem esc_cons (c : Byte) (p : List Byte) : esc (c :: p) = escapeOf c ++ esc p := by simp [esc]

@[simp] theorem esc_append (p q : List Byte) : esc (p ++ q) = esc p ++ esc q := by simp [esc]

/-- R130's loop emits `esc` of the payload, whatever the state. -/
theorem sendBytes_eq (p : List Byte) (s : State) : sendBytes p s = .next (emit (esc p) s) := by
  induction p generalizing s with
  | nil => simp [sendBytes]
  | cons c p ih => simp [sendBytes, sendByte_eq, ih]

/-! ## The dispatcher's writes -/

/-- The writes change RB only. -/
theorem applyWrites_eq (ws : List Host.Cell) (s : State) : applyWrites ws s = { s with rb := (applyWrites ws s).rb } := by
  induction ws generalizing s with
  | nil => rfl
  | cons c ws ih =>
    have h := ih (writeRB c.1 c.2 s)
    simpa [applyWrites, writeRB] using h

/-! ## Steps -/

theorem step_of_no_reset {s : State} (h : s.resets = []) : step s = advance s := by simp [step, cycle, h]

theorem advance_busy {s : State} (h : s.busy = true) : advance s = resume s := by simp [advance, h]

theorem advance_idle {s : State} (h : s.busy = false) : advance s = poll s := by simp [advance, h]

@[simp] theorem runSteps_zero (s : State) : runSteps 0 s = .next s := rfl

theorem runSteps_succ (n : Nat) (s : State) : runSteps (n + 1) s = andThen (step s) (runSteps n) := rfl

theorem runSteps_one (s : State) : runSteps 1 s = step s := by
  rw [runSteps_succ]; cases step s <;> rfl

/-- A run of `m + n` steps is a run of `m` steps and then one of `n`. -/
theorem runSteps_add (m n : Nat) (s : State) : runSteps (m + n) s = andThen (runSteps m s) (runSteps n) := by
  induction m generalizing s with
  | zero => simp
  | succ m ih => rw [Nat.succ_add, runSteps_succ, runSteps_succ, andThen_assoc]; congr 1; funext t; exact ih t

theorem runSteps_trans {m n : Nat} {s t u : State} (h₁ : runSteps m s = .next t) (h₂ : runSteps n t = .next u) :
    runSteps (m + n) s = .next u := by rw [runSteps_add, h₁]; exact h₂

/-- The host's run is the model's. -/
theorem hostRun_eq_runSteps (n : Nat) (s : State) : Host.Core.run Sys2Proof.core n s = runSteps n s := by
  induction n generalizing s with
  | zero => rfl
  | succ n ih =>
    have hs : Sys2Proof.core.step s = step s := rfl
    rw [runSteps_succ]
    simp only [Host.Core.run, hs]
    cases step s with
    | next t => exact ih t
    | fault r => rfl
    | refused r => rfl

end Sys2Proof.Machine
end

