-- ==== Sys2Proof/Laws/PerInstr.lean ====
section
/-! SUPPORT. The family RoundTrip, one lemma per constructor of Instr: the decoder reads an operation back from the selection
the encoder gives it. -/

namespace Sys2Proof.Laws.RoundTrip

open Sys2Proof

/-- Decoding the selection of a well-formed operation gives the operation. -/
def Statement (i : Instr) : Prop := i.wf = true → decode (encode i) = .ok i

theorem idleEnd : Statement .idleEnd := fun _ => rfl
theorem idleOther (b : Byte) : Statement (.idleOther b) := fun h => by
  simp only [Instr.wf, bne_iff_ne] at h
  simp only [encode, decode, decodeInput, if_neg h]
theorem rxEnd : Statement .rxEnd := fun _ => rfl
theorem rxEsc : Statement .rxEsc := fun _ => rfl
theorem rxData (b : Byte) : Statement (.rxData b) := fun h => by
  simp only [Instr.wf, Bool.and_eq_true, bne_iff_ne] at h
  simp only [encode, decode, decodeInput, if_neg h.1, if_neg h.2]; rfl
theorem rxOverflow (b : Byte) : Statement (.rxOverflow b) := fun h => by
  simp only [Instr.wf, Bool.and_eq_true, bne_iff_ne] at h
  simp only [encode, decode, decodeInput, if_neg h.1, if_neg h.2]; rfl
theorem escEscEnd : Statement .escEscEnd := fun _ => rfl
theorem escEscEsc : Statement .escEscEsc := fun _ => rfl
theorem escOther (b : Byte) : Statement (.escOther b) := fun h => by
  simp only [Instr.wf, Bool.and_eq_true, bne_iff_ne] at h
  simp only [encode, decode, decodeInput, if_neg h.1, if_neg h.2]
theorem decDeliver (len : Nat) : Statement (.decDeliver len) := fun h => by
  simp only [Instr.wf] at h
  simp only [encode, decode, decodeEvent, h, if_true]
theorem encSend (n : Nat) : Statement (.encSend n) := fun h => by
  simp only [Instr.wf, decide_eq_true_eq] at h
  simp only [encode, decode, decodeEvent, if_pos h]
theorem encResync : Statement .encResync := fun _ => rfl
theorem encOpen : Statement .encOpen := fun _ => rfl
theorem encByteEnd : Statement .encByteEnd := fun _ => rfl
theorem encByteEsc : Statement .encByteEsc := fun _ => rfl
theorem encByteLit (c : Byte) : Statement (.encByteLit c) := fun h => by
  simp only [Instr.wf, Bool.and_eq_true, bne_iff_ne] at h
  simp only [encode, decode, decodePayload, if_neg h.1, if_neg h.2]
theorem encClose : Statement .encClose := fun _ => rfl
theorem crcClear : Statement .crcClear := fun _ => rfl
theorem crcStep (b : Byte) : Statement (.crcStep b) := fun _ => rfl
theorem procFrame (len : Nat) : Statement (.procFrame len) := fun h => by
  simp only [Instr.wf] at h
  simp only [encode, decode, decodeEvent, h, if_true]
theorem procSplit (len : Nat) : Statement (.procSplit len) := fun h => by
  simp only [Instr.wf] at h
  simp only [encode, decode, decodeEvent, h, if_true]
theorem procVerify : Statement .procVerify := fun _ => rfl
theorem procErrChecksum : Statement .procErrChecksum := fun _ => rfl
theorem procDispatch : Statement .procDispatch := fun _ => rfl
theorem procRespond : Statement .procRespond := fun _ => rfl
theorem procErrDispatch : Statement .procErrDispatch := fun _ => rfl
theorem procSendError (code : ErrorCode) : Statement (.procSendError code) := fun _ => by cases code <;> rfl

end Sys2Proof.Laws.RoundTrip
end

