-- ==== Sys2Proof/Laws/Step.lean ====
section
/-! SUPPORT. What each operation and each step can do, said once: if it answers `next t`, then what `t` is. The buffers'
canonical form under every memory operation. -/

namespace Sys2Proof.Machine

open Config

/-! ## The canonical form of the buffers -/

/-- Reset's buffers have the form. -/
theorem reset_wf : State.reset.fb.wf capFB = true ∧ State.reset.rb.wf capRB = true := ⟨rfl, rfl⟩

theorem writeFB_wf {i : Nat} {v : Byte} {s : State} (hi : i < capFB) (h : s.fb.wf capFB = true) :
    (writeFB i v s).fb.wf capFB = true := Memory.wf_write v hi h

theorem writeRB_wf {i : Nat} {v : Byte} {s : State} (hi : i < capRB) (h : s.rb.wf capRB = true) :
    (writeRB i v s).rb.wf capRB = true := Memory.wf_write v hi h

theorem appendByte_wf {b : Byte} {s : State} (hc : s.cursor < capFB) (h : s.fb.wf capFB = true) :
    (appendByte b s).fb.wf capFB = true := Memory.wf_write b hc h

theorem resolveEscape_wf {b : Byte} {s : State} (h : s.fb.wf capFB = true) : (resolveEscape b s).fb.wf capFB = true := by
  unfold resolveEscape
  split
  next hc => exact appendByte_wf hc h
  next => exact h

theorem applyWrites_wf (ws : List Host.Cell) {s : State} (hw : ∀ c ∈ ws, c.1 < capRB) (h : s.rb.wf capRB = true) :
    (applyWrites ws s).rb.wf capRB = true := by
  induction ws generalizing s with
  | nil => exact h
  | cons c ws ih => exact ih (fun c hc => hw c (by simp [hc])) (writeRB_wf (hw c (by simp)) h)

theorem acceptReply_wf {r : Reply} {s : State} (hr : r.writesInContract = true) (h : s.rb.wf capRB = true) :
    (acceptReply r s).rb.wf capRB = true := by
  simp only [Reply.writesInContract, Bool.and_eq_true, List.all_eq_true, decide_eq_true_eq] at hr
  exact applyWrites_wf r.writes (fun c hc => Nat.lt_of_lt_of_le (hr.1 c hc) (by decide)) h

theorem resetCore_wf (s : State) : (resetCore s).fb.wf capFB = true ∧ (resetCore s).rb.wf capRB = true := ⟨rfl, rfl⟩

/-! ## What the operations can do -/

theorem applyWrites_rb (ws : List Host.Cell) (s : State) :
    (applyWrites ws s).rb = ws.foldl (fun m c => m.write c.1 c.2) s.rb := by
  induction ws generalizing s with
  | nil => rfl
  | cons c ws ih => exact ih _

theorem acceptReply_eq (r : Reply) (s : State) :
    acceptReply r s = { s with rb := (applyWrites r.writes s).rb, status := r.status, responseLen := r.responseLen } := by
  unfold acceptReply; rw [applyWrites_eq]

theorem send_inv {n : Nat} {s t : State} (h : execEncSend n s = .next t) : n ≤ 256 ∧ t = emit (unit (s.rbRange n)) s := by
  unfold execEncSend at h
  split at h
  · cases h
  · simp only [execEncResync, execEncOpen, sendBytes_eq, execEncClose, andThen_next, emit_emit] at h
    refine ⟨by simp_all, ?_⟩
    cases h
    simp [unit]

theorem sendError_inv {code : ErrorCode} {s t : State} (h : execProcSendError code s = .next t) :
    ∃ m a e, t = { s with rb := m, acc := a, emitting := s.emitting ++ e } ∧ (s.rb.wf capRB = true → m.wf capRB = true) := by
  simp only [execProcSendError, runChecksum_eq] at h
  obtain ⟨-, rfl⟩ := send_inv h
  exact ⟨_, _, _, rfl, fun hw => Memory.wf_write _ (by decide) (Memory.wf_write _ (by decide) (Memory.wf_write _ (by decide) hw))⟩

theorem respond_inv {s t : State} (h : execProcRespond s = .next t) :
    s.responseLen ≤ 255 ∧
      ∃ m a e, t = { s with rb := m, acc := a, emitting := s.emitting ++ e } ∧ (s.rb.wf capRB = true → m.wf capRB = true) := by
  simp only [execProcRespond, runChecksum_eq] at h
  split at h
  · cases h
  next hl =>
    have hl' : s.responseLen ≤ 255 := by simpa using hl
    obtain ⟨-, rfl⟩ := send_inv h
    exact ⟨hl', _, _, _, rfl, fun hw => Memory.wf_write _ (Nat.lt_succ_of_le hl') hw⟩

theorem split_inv {len : Nat} {s t : State} (h : execProcSplit len s = .next t) :
    1 ≤ len ∧ len ≤ 256 ∧ t = { s with frameLen := len, received := s.fbByte (len - 1) } := by
  unfold execProcSplit at h
  split at h
  · cases h; simp_all
  · cases h

theorem verify_inv {s t : State} (h : execProcVerify s = .next t) :
    t = { s with acc := crc8 (frameData s), expected := crc8 (frameData s),
                 matched := matchFlag (crc8 (frameData s)) s.received } := by
  unfold execProcVerify at h
  split at h
  · simp only [runChecksum_eq] at h; cases h; rfl
  · cases h

theorem dispatch_inv {s t : State} (h : execProcDispatch s = .next t) : t = push .awaitReply (logCall (frameCall s) s) := by
  unfold execProcDispatch at h
  split at h
  · cases h; rfl
  · cases h

/-- PROC.FRAME either emits an error unit (RB and `acc` written, nothing called) or makes its one call and waits. -/
theorem frame_inv {len : Nat} {s t : State} (h : execProcFrame len s = .next t) :
    2 ≤ len ∧ len ≤ 256 ∧
      ((∃ r x a m e, t = { s with frameLen := len, received := r, expected := x, matched := false, rb := m, acc := a,
                                  emitting := s.emitting ++ e } ∧ (s.rb.wf capRB = true → m.wf capRB = true)) ∨
       (∃ r x a, t = { s with frameLen := len, received := r, expected := x, matched := true, acc := a,
                              calls := s.calls ++ [⟨s.fbRange (len - 1), len - 1, 255⟩],
                              ctl := .awaitReply :: .branchOnStatus :: s.ctl })) := by
  unfold execProcFrame at h
  split at h
  · cases h
  next hl =>
    obtain ⟨s1, h1, h⟩ := andThen_eq_next h
    obtain ⟨s2, h2, h⟩ := andThen_eq_next h
    obtain ⟨-, -, rfl⟩ := split_inv h1
    obtain rfl := verify_inv h2
    refine ⟨by simp at hl; omega, by simp at hl; omega, ?_⟩
    split at h
    next hm =>
      obtain rfl := dispatch_inv h
      have hm' : matchFlag (crc8 (s.fbRange (len - 1))) (s.fbByte (len - 1)) = true := hm
      refine .inr ⟨s.fbByte (len - 1), crc8 (s.fbRange (len - 1)), crc8 (s.fbRange (len - 1)), ?_⟩
      rw [← hm']; rfl
    next hm =>
      obtain ⟨m, a, e, rfl, hw⟩ := sendError_inv h
      simp only [Bool.not_eq_true] at hm
      have hm' : matchFlag (crc8 (s.fbRange (len - 1))) (s.fbByte (len - 1)) = false := hm
      refine .inl ⟨s.fbByte (len - 1), crc8 (s.fbRange (len - 1)), a, m, e, ?_, hw⟩
      rw [← hm']; rfl

/-- What no operation touches (the interfaces' data, `busy`, the dispatcher's answer), and what operations only add to. -/
structure EnvKept (s t : State) : Prop where
  input : t.input = s.input
  out : t.out = s.out
  replies : t.replies = s.replies
  sink : t.sink = s.sink
  sinkOpen : t.sinkOpen = s.sinkOpen
  resets : t.resets = s.resets
  epoch : t.epoch = s.epoch
  busy : t.busy = s.busy
  status : t.status = s.status
  responseLen : t.responseLen = s.responseLen
  calls : t.calls = s.calls ∨ ∃ c, t.calls = s.calls ++ [c]
  emitting : ∃ e, t.emitting = s.emitting ++ e

/-- An operation that neither calls nor emits. -/
theorem EnvKept.silent {s t : State}
    (h : t = { s with dstate := t.dstate, cursor := t.cursor, fb := t.fb, rb := t.rb, acc := t.acc, frameLen := t.frameLen,
                      received := t.received, expected := t.expected, matched := t.matched, ctl := t.ctl }) :
    EnvKept s t := by
  rw [h]; exact ⟨rfl, rfl, rfl, rfl, rfl, rfl, rfl, rfl, rfl, rfl, .inl rfl, [], by simp⟩

/-- An operation that emits. -/
theorem EnvKept.emits (s : State) (m : Memory) (a : Byte) (e : List Byte) :
    EnvKept s { s with rb := m, acc := a, emitting := s.emitting ++ e } :=
  ⟨rfl, rfl, rfl, rfl, rfl, rfl, rfl, rfl, rfl, rfl, .inl rfl, e, rfl⟩

theorem frame_env {len : Nat} {s t : State} (h : execProcFrame len s = .next t) : EnvKept s t := by
  obtain ⟨-, -, ⟨_, _, _, _, e, rfl, -⟩ | ⟨_, _, _, rfl⟩⟩ := frame_inv h
  · exact ⟨rfl, rfl, rfl, rfl, rfl, rfl, rfl, rfl, rfl, rfl, .inl rfl, e, rfl⟩
  · exact ⟨rfl, rfl, rfl, rfl, rfl, rfl, rfl, rfl, rfl, rfl, .inr ⟨_, rfl⟩, [], by simp⟩

theorem resolveEscape_env (b : Byte) (s : State) : EnvKept s (resolveEscape b s) := by
  apply EnvKept.silent; unfold resolveEscape; split <;> rfl

/-- Every operation leaves the environment's data alone. -/
theorem exec_env {i : Instr} {s t : State} (h : exec i s = .next t) : EnvKept s t := by
  cases i with
  | idleEnd => cases h; exact .silent rfl
  | idleOther _ => cases h; exact .silent rfl
  | rxEnd =>
    simp only [exec, execRxEnd] at h
    split at h
    · have k := frame_env (show execProcFrame _ _ = _ from h)
      exact ⟨k.input, k.out, k.replies, k.sink, k.sinkOpen, k.resets, k.epoch, k.busy, k.status, k.responseLen, k.calls, k.emitting⟩
    · cases h; exact .silent rfl
  | rxEsc => cases h; exact .silent rfl
  | rxData _ => simp only [exec, execRxData] at h; split at h <;> cases h; exact .silent rfl
  | rxOverflow _ => cases h; exact .silent rfl
  | escEscEnd => cases h; exact resolveEscape_env _ s
  | escEscEsc => cases h; exact resolveEscape_env _ s
  | escOther _ => cases h; exact .silent rfl
  | decDeliver len => exact frame_env h
  | encSend n => obtain ⟨-, rfl⟩ := send_inv h; exact .emits s s.rb s.acc _
  | encResync => cases h; exact .emits s s.rb s.acc _
  | encOpen => cases h; exact .emits s s.rb s.acc _
  | encByteEnd => cases h; exact .emits s s.rb s.acc _
  | encByteEsc => cases h; exact .emits s s.rb s.acc _
  | encByteLit _ => cases h; exact .emits s s.rb s.acc _
  | encClose => cases h; exact .emits s s.rb s.acc _
  | crcClear => cases h; exact .silent rfl
  | crcStep _ => cases h; exact .silent rfl
  | procFrame len => exact frame_env h
  | procSplit len => obtain ⟨-, -, rfl⟩ := split_inv h; exact .silent rfl
  | procVerify => obtain rfl := verify_inv h; exact .silent rfl
  | procErrChecksum => obtain ⟨m, a, e, rfl, -⟩ := sendError_inv h; exact .emits s m a e
  | procDispatch =>
    obtain rfl := dispatch_inv h
    exact ⟨rfl, rfl, rfl, rfl, rfl, rfl, rfl, rfl, rfl, rfl, .inr ⟨_, rfl⟩, [], by simp⟩
  | procRespond => obtain ⟨-, m, a, e, rfl, -⟩ := respond_inv h; exact .emits s m a e
  | procErrDispatch => obtain ⟨m, a, e, rfl, -⟩ := sendError_inv h; exact .emits s m a e
  | procSendError code => obtain ⟨m, a, e, rfl, -⟩ := sendError_inv h; exact .emits s m a e

/-! ## What a move of the control path can do -/

theorem endFeed_cases (s : State) :
    endFeed s = s ∨ (endFeed s = { s with busy := false } ∧ s.ctl = [] ∧ s.emitting = []) := by
  unfold endFeed
  split
  next h => simp only [Bool.and_eq_true, List.isEmpty_iff] at h; exact .inr ⟨rfl, h⟩
  next => exact .inl rfl

/-- While something of the Feed is left, it has not ended. -/
theorem endFeed_busy {s : State} (h : s.ctl ≠ [] ∨ s.emitting ≠ []) : endFeed s = s := by
  rcases endFeed_cases s with e | ⟨-, hc, he⟩
  · exact e
  · rcases h with h | h <;> contradiction

/-- The end of a Feed writes `busy` only. -/
theorem endFeed_eq (s : State) : endFeed s = { s with busy := (endFeed s).busy } := by
  rcases endFeed_cases s with h | ⟨h, -⟩ <;> rw [h]

@[simp] theorem finish_next (s : State) : finish (.next s) = .next (endFeed s) := rfl

@[simp] theorem finish_fault (r : Fault) : finish (.fault r) = .fault r := rfl

theorem finish_inv {o : Result} {t : State} (h : finish o = .next t) : ∃ u, o = .next u ∧ t = endFeed u := by
  obtain ⟨u, h1, h2⟩ := andThen_eq_next h
  cases h2
  exact ⟨u, h1, rfl⟩

/-- One attempt at the sink: it took the byte, or it did not. -/
theorem offerByte_cases (b : Byte) (bs : List Byte) (s : State) :
    (∃ sk, offerByte b bs s = { s with sink := sk, emitting := bs, out := s.out ++ [b] }) ∨
    (∃ sk, offerByte b bs s = { s with sink := sk }) := by
  unfold offerByte
  split
  · exact .inl ⟨_, rfl⟩
  · exact .inr ⟨_, rfl⟩
  · split
    · exact .inl ⟨s.sink, rfl⟩
    · exact .inr ⟨s.sink, rfl⟩

/-- What one move of the core can be, guards included. -/
inductive Advances (s : State) : State → Prop where
  | nothingOffered : s.busy = false → s.input = [] → Advances s s
  | pollNone (rest) : s.busy = false → s.input = none :: rest → Advances s { s with input := rest }
  | takesByte (b rest u) : s.busy = false → s.input = some b :: rest →
      exec (decodeInput s.dstate s.cursor b) { s with input := rest, busy := true } = .next u → Advances s (endFeed u)
  | emits (b bs) : s.busy = true → s.emitting = b :: bs → Advances s (endFeed (offerByte b bs s))
  | nothingLeft : s.busy = true → s.emitting = [] → s.ctl = [] → Advances s (endFeed s)
  | noReplyEver (k) : s.busy = true → s.emitting = [] → s.ctl = .awaitReply :: k → s.replies = [] → Advances s (endFeed s)
  | noReplyYet (k more) : s.busy = true → s.emitting = [] → s.ctl = .awaitReply :: k → s.replies = none :: more →
      Advances s (endFeed { s with replies := more })
  | reply (k r more) : s.busy = true → s.emitting = [] → s.ctl = .awaitReply :: k → s.replies = some r :: more →
      r.writesInContract = true → Advances s (endFeed (acceptReply r { s with replies := more, ctl := k }))
  | branches (k u) : s.busy = true → s.emitting = [] → s.ctl = .branchOnStatus :: k →
      exec (statusOp s.status) { s with ctl := k } = .next u → Advances s (endFeed u)
  | closes (k) : s.busy = true → s.emitting = [] → s.ctl = .closeFrame :: k →
      Advances s (endFeed (closeFrame { s with ctl := k }))

theorem advance_inv {s t : State} (h : advance s = .next t) : Advances s t := by
  unfold advance at h
  split at h
  next hb =>
    unfold resume at h
    split at h
    next b bs he => obtain ⟨u, h1, rfl⟩ := finish_inv h; cases h1; exact .emits b bs hb he
    next he =>
      split at h <;> obtain ⟨u, h1, rfl⟩ := finish_inv h
      next hc => cases h1; exact .nothingLeft hb he hc
      next k hc =>
        unfold receiveReply at h1
        split at h1
        next hr => cases h1; exact .noReplyEver k hb he hc hr
        next m hr => cases h1; exact .noReplyYet k m hb he hc hr
        next r m hr =>
          split at h1
          next hw => cases h1; exact .reply k r m hb he hc hr hw
          next => cases h1
      next k hc => exact .branches k u hb he hc h1
      next k hc => cases h1; exact .closes k hb he hc
  next hb =>
    simp only [Bool.not_eq_true] at hb
    unfold poll at h
    split at h
    next hi => cases h; exact .nothingOffered hb hi
    next rest hi => cases h; exact .pollNone rest hb hi
    next b rest hi => obtain ⟨u, h1, rfl⟩ := finish_inv h; exact .takesByte b rest u hb hi h1

/-- What one step can be: a reset (R230), or a move of the core. -/
theorem step_inv {s t : State} (h : step s = .next t) :
    (∃ u more, t = resetCore u ∧ u = { s with resets := more, input := u.input } ∧
      (u.input = s.input ∨ (s.busy = false ∧ ∃ x, s.input = x :: u.input))) ∨
    (∃ more, Advances { s with resets := more } t) := by
  unfold step cycle at h
  split at h
  · exact .inr ⟨s.resets, advance_inv h⟩
  next more _ => exact .inr ⟨more, advance_inv h⟩
  next more _ => cases h; exact .inl ⟨_, more, rfl, rfl, .inl rfl⟩
  next more _ =>
    cases h
    left
    unfold resetTaking
    split
    · exact ⟨_, more, rfl, rfl, .inl rfl⟩
    next hb =>
      simp only [Bool.not_eq_true] at hb
      split
      · exact ⟨_, more, rfl, rfl, .inl rfl⟩
      next x rest hi => exact ⟨_, more, rfl, rfl, .inr ⟨hb, x, hi⟩⟩

end Sys2Proof.Machine
end

