-- ==== Sys2Proof/Tests/Slice0.lean ====
section
/-! SUPPORT. The model's own tests. Expected results come from spec/: the opcode table's words, the vectors of
spec/95_test_vectors.md (each named), and hand reading of the rules. The last part shows, for every statement with hypotheses, a
state and operands that meet them. -/

namespace Sys2Proof.Tests

open Sys2Proof Sys2Proof.Machine

/-! ## Small states and outcomes -/

/-- The bytes as buffer contents from index 0. -/
def bytes (l : List Byte) : Memory := (List.range l.length).zip l

/-- A core that is not busy. -/
def quiet (d : DState) (c : Nat) (fb : List Byte) (inp : List (Option Byte)) : State :=
  { State.reset with dstate := d, cursor := c, fb := bytes fb, input := inp }

/-- A core in the middle of a Feed whose frame is `fb`. -/
def during (ctl : List Pending) (em : List Byte) (fb : List Byte) : State :=
  { State.reset with
    dstate := .receiving, cursor := fb.length, fb := bytes fb, busy := true, frameLen := fb.length, matched := true, ctl := ctl,
    emitting := em }

/-- A reply within the dispatcher's duties that writes its response. -/
def replyOf (st : Status) (resp : List Byte) : Reply := ⟨st, resp.length, bytes resp, []⟩

/-- The outcome is a next state with the property. -/
def goesTo (o : Result) (p : State → Bool) : Bool :=
  match o with
  | .next s => p s
  | _ => false

/-- The outcome is the fault. -/
def faults (o : Result) (r : Fault) : Bool :=
  match o with
  | .fault q => q == r
  | _ => false

theorem exists_of_goesTo {o : Result} {p : State → Bool} (h : goesTo o p = true) : ∃ t, o = .next t ∧ p t = true := by
  cases o with
  | next t => exact ⟨t, rfl, h⟩
  | fault r => cases h
  | refused r => cases h

/-- A whole buffer of zeros, written. -/
def zeros : Memory := (List.range 256).map fun i => (i, 0x00#8)

/-- A core in Receiving whose FB is full of zeros. -/
def full : State := { quiet .receiving 256 [] [some 0xC0#8] with fb := zeros }

theorem full_fbByte : ∀ i, i < 256 → full.fbByte i = 0x00#8 := by decide +kernel

theorem full_fbRange {n : Nat} (h : n ≤ 256) : full.fbRange n = List.replicate n 0x00#8 := by
  rw [List.eq_replicate_iff]
  refine ⟨by simp, fun b hb => ?_⟩
  simp only [State.fbRange, List.mem_map, List.mem_range] at hb
  obtain ⟨i, hi, rfl⟩ := hb
  exact full_fbByte i (by omega)

/-- CV17's note: zeros are invisible to this CRC. -/
theorem crc8_zeros (n : Nat) : crc8 (List.replicate n 0x00#8) = 0x00#8 := by
  have h : ∀ n, (List.replicate n (0x00#8 : Byte)).foldl crcAbsorb 0x00#8 = 0x00#8 := by
    intro n
    induction n with
    | zero => rfl
    | succ n ih =>
      rw [List.replicate_succ, List.foldl_cons, show crcAbsorb 0x00#8 0x00#8 = 0x00#8 by decide +kernel]
      exact ih
  exact h n

/-! ## WellFormed refuses each ill-formed operand -/

theorem test_wf_idle_other_end : (Instr.idleOther 0xC0#8).wf = false := by decide
theorem test_wf_rx_data_end : (Instr.rxData 0xC0#8).wf = false := by decide
theorem test_wf_rx_data_esc : (Instr.rxData 0xDB#8).wf = false := by decide
theorem test_wf_rx_overflow_end : (Instr.rxOverflow 0xC0#8).wf = false := by decide
theorem test_wf_rx_overflow_esc : (Instr.rxOverflow 0xDB#8).wf = false := by decide
theorem test_wf_esc_other_esc_end : (Instr.escOther 0xDC#8).wf = false := by decide
theorem test_wf_esc_other_esc_esc : (Instr.escOther 0xDD#8).wf = false := by decide
theorem test_wf_deliver_short : (Instr.decDeliver 1).wf = false := by decide
theorem test_wf_deliver_long : (Instr.decDeliver 257).wf = false := by decide
theorem test_wf_send_long : (Instr.encSend 257).wf = false := by decide
theorem test_wf_byte_lit_end : (Instr.encByteLit 0xC0#8).wf = false := by decide
theorem test_wf_byte_lit_esc : (Instr.encByteLit 0xDB#8).wf = false := by decide
theorem test_wf_frame_short : (Instr.procFrame 1).wf = false := by decide
theorem test_wf_frame_long : (Instr.procFrame 257).wf = false := by decide
theorem test_wf_split_short : (Instr.procSplit 1).wf = false := by decide
theorem test_wf_split_long : (Instr.procSplit 257).wf = false := by decide
theorem test_wf_bounds : (Instr.procFrame 2).wf = true ∧ (Instr.procFrame 256).wf = true ∧ (Instr.encSend 0).wf = true ∧
    (Instr.encSend 256).wf = true := by decide

/-! ## Every constructor's decoding: the word of its row, written out from spec/opcode_table.json and R82 -/

theorem test_decode_idle_end : decode (.inputByte .idle 0 0b11000000) = .ok .idleEnd := by decide
theorem test_decode_idle_other : decode (.inputByte .idle 0 0b11011011) = .ok (.idleOther 0xDB#8) := by decide
theorem test_decode_rx_end : decode (.inputByte .receiving 256 0b11000000) = .ok .rxEnd := by decide
theorem test_decode_rx_esc : decode (.inputByte .receiving 256 0b11011011) = .ok .rxEsc := by decide
theorem test_decode_rx_data : decode (.inputByte .receiving 255 0b11011100) = .ok (.rxData 0xDC#8) := by decide
theorem test_decode_rx_overflow : decode (.inputByte .receiving 256 0b11011110) = .ok (.rxOverflow 0xDE#8) := by decide
theorem test_decode_esc_end : decode (.inputByte .escaped 0 0b11011100) = .ok .escEscEnd := by decide
theorem test_decode_esc_esc : decode (.inputByte .escaped 0 0b11011101) = .ok .escEscEsc := by decide
theorem test_decode_esc_other : decode (.inputByte .escaped 0 0b11011110) = .ok (.escOther 0xDE#8) := by decide
theorem test_decode_deliver : decode (.event (.closedAbove1 2)) = .ok (.decDeliver 2) := by decide
theorem test_decode_send : decode (.event (.sendCall 3)) = .ok (.encSend 3) := by decide
theorem test_decode_resync : decode (.event .sendFirst) = .ok .encResync := by decide
theorem test_decode_open : decode (.event .sendSecond) = .ok .encOpen := by decide
theorem test_decode_byte_end : decode (.payloadByte 0b11000000) = .ok .encByteEnd := by decide
theorem test_decode_byte_esc : decode (.payloadByte 0b11011011) = .ok .encByteEsc := by decide
theorem test_decode_byte_lit : decode (.payloadByte 0b11011101) = .ok (.encByteLit 0xDD#8) := by decide
theorem test_decode_close : decode (.event .sendLast) = .ok .encClose := by decide
theorem test_decode_crc_clear : decode (.event .checksumStart) = .ok .crcClear := by decide
theorem test_decode_crc_step : decode (.event (.checksumByte 0x41#8)) = .ok (.crcStep 0x41#8) := by decide
theorem test_decode_frame : decode (.event (.delivery 256)) = .ok (.procFrame 256) := by decide
theorem test_decode_split : decode (.event (.frameFirst 2)) = .ok (.procSplit 2) := by decide
theorem test_decode_verify : decode (.event .frameSecond) = .ok .procVerify := by decide
theorem test_decode_err_checksum : decode (.event (.matchIs false)) = .ok .procErrChecksum := by decide
theorem test_decode_dispatch : decode (.event (.matchIs true)) = .ok .procDispatch := by decide
theorem test_decode_respond : decode (.event (.statusIs .success)) = .ok .procRespond := by decide
theorem test_decode_err_dispatch : decode (.event (.statusIs .failure)) = .ok .procErrDispatch := by decide
theorem test_decode_send_error : decode (.event (.errorWith 0b00000001)) = .ok (.procSendError .checksumMismatch) := by decide

theorem test_decode_rejects : decode (.event (.closedAbove1 1)) = .error (.frameLength 1) ∧
    decode (.event (.sendCall 257)) = .error (.sendLength 257) ∧ decode (.event (.delivery 257)) = .error (.frameLength 257) ∧
    decode (.event (.frameFirst 0)) = .error (.frameLength 0) ∧
    decode (.event (.errorWith 0x00#8)) = .error (.reservedErrorCode 0x00#8) := by decide

/-- R21: the unused code `11` stands for no state, and the others are read back. -/
theorem test_dstate_codes : DState.ofCode 0b11 = none ∧
    ∀ d ∈ [DState.idle, .receiving, .escaped], DState.ofCode d.code = some d := by decide

/-! ## The host's word -/

theorem test_table_words : decodeTableWord 8 0xC0 = some .idleEnd ∧ decodeTableWord 8 0xDB = some .rxEsc ∧
    decodeTableWord 8 0xDC = some .escEscEnd ∧ decodeTableWord 8 0xDD = some .escEscEsc ∧
    decodeTableWord 8 0x41 = some (.idleOther 0x41#8) ∧ decodeTableWord 8 256 = none ∧ decodeTableWord 16 0 = none := by decide

/-- The step after `withFetchWord` runs the word: an opening marker (DV1), an escape pair's second byte (DV17). -/
theorem test_with_fetch_word :
    goesTo (step (State.reset.withFetchWord 8 0xC0)) (fun t => t.dstate == .receiving && t.cursor == 0) = true ∧
    goesTo (step (State.reset.withFetchWord 8 0xDC))
      (fun t => t.dstate == .receiving && t.cursor == 1 && t.fb == bytes [0xC0#8]) = true := by decide +kernel

/-! ## Decoder vectors -/

/-- DV1. -/
theorem test_idle_end : goesTo (exec .idleEnd (quiet .idle 0 [] [])) (fun t => t.dstate == .receiving && t.cursor == 0) = true := by
  decide
/-- DV2. -/
theorem test_idle_other : goesTo (exec (.idleOther 0xDB#8) (quiet .idle 0 [] [])) (· == quiet .idle 0 [] []) = true := by decide
/-- DV6. -/
theorem test_rx_end_short : goesTo (exec .rxEnd (quiet .receiving 1 [0x07#8] []))
    (fun t => t.dstate == .idle && t.cursor == 0 && t.calls == [] && t.emitting == []) = true := by decide
/-- DV7. -/
theorem test_rx_end_delivers : goesTo (exec .rxEnd (quiet .receiving 2 [0x01#8, 0x07#8] []))
    (fun t => t.calls == [⟨[0x01#8], 1, 255⟩] && t.emitting == [] && t.matched) = true := by decide +kernel
/-- DV9. -/
theorem test_rx_esc : goesTo (exec .rxEsc (quiet .receiving 5 [] [])) (fun t => t.dstate == .escaped && t.cursor == 5) = true := by
  decide
/-- DV14. -/
theorem test_rx_data_fills : goesTo (exec (.rxData 0x00#8) (quiet .receiving 255 [] []))
    (fun t => t.dstate == .receiving && t.cursor == 256 && t.fb == [(255, 0x00#8)]) = true := by decide
/-- DV15. -/
theorem test_rx_overflow : goesTo (exec (.rxOverflow 0x41#8) (quiet .receiving 256 [] []))
    (fun t => t.dstate == .idle && t.cursor == 0 && t.emitting == [] && t.fb == []) = true := by decide
/-- DV18. -/
theorem test_esc_end_fills : goesTo (exec .escEscEnd (quiet .escaped 255 [] []))
    (fun t => t.dstate == .receiving && t.cursor == 256 && t.fb == [(255, 0xC0#8)]) = true := by decide
/-- DV19. -/
theorem test_esc_end_full : goesTo (exec .escEscEnd (quiet .escaped 256 [] []))
    (fun t => t.dstate == .receiving && t.cursor == 0) = true := by decide
/-- DV20. -/
theorem test_esc_esc : goesTo (exec .escEscEsc (quiet .escaped 0 [] []))
    (fun t => t.dstate == .receiving && t.cursor == 1 && t.fb == bytes [0xDB#8]) = true := by decide
/-- DV21. -/
theorem test_esc_esc_full : goesTo (exec .escEscEsc (quiet .escaped 256 [] []))
    (fun t => t.dstate == .receiving && t.cursor == 0) = true := by decide
/-- DV23: the escape resolver takes precedence over the boundary detector. -/
theorem test_esc_other_takes_end : goesTo (step (quiet .escaped 7 [] [some 0xC0#8]))
    (fun t => t.dstate == .receiving && t.cursor == 0 && t.calls == [] && t.emitting == []) = true := by decide
/-- DV24. -/
theorem test_esc_other_takes_esc : goesTo (step (quiet .escaped 7 [] [some 0xDB#8]))
    (fun t => t.dstate == .receiving && t.cursor == 0) = true := by decide
/-- DV8: the boundary row, not the overflow row, at full capacity. -/
theorem test_full_boundary : decodeInput full.dstate full.cursor 0xC0#8 = .rxEnd := by decide
theorem test_deliver : goesTo (exec (.decDeliver 2) (quiet .receiving 2 [0x01#8, 0x07#8] []))
    (fun t => t.frameLen == 2 && t.calls.length == 1) = true := by decide +kernel

/-! ## Encoder vectors -/

/-- EV6. -/
theorem test_send_escapes : goesTo (exec (.encSend 2) { State.reset with rb := bytes [0xC0#8, 0xDB#8] })
    (fun t => t.emitting == [0xDB#8, 0xDE#8, 0xC0#8, 0xDB#8, 0xDC#8, 0xDB#8, 0xDD#8, 0xC0#8]) = true := by decide +kernel
/-- EV11. -/
theorem test_send_too_long : faults (exec (.encSend 257) State.reset) .sendLengthExceeded = true := by decide
/-- R131, behind a byte that still waits. -/
theorem test_resync : goesTo (exec .encResync (during [.closeFrame] [0x01#8] []))
    (fun t => t.emitting == [0x01#8, 0xDB#8, 0xDE#8]) = true := by decide
theorem test_open : goesTo (exec .encOpen State.reset) (fun t => t.emitting == [0xC0#8]) = true := by decide
theorem test_byte_end : goesTo (exec .encByteEnd State.reset) (fun t => t.emitting == [0xDB#8, 0xDC#8]) = true := by decide
theorem test_byte_esc : goesTo (exec .encByteEsc State.reset) (fun t => t.emitting == [0xDB#8, 0xDD#8]) = true := by decide
theorem test_byte_lit : goesTo (exec (.encByteLit 0xDE#8) State.reset) (fun t => t.emitting == [0xDE#8]) = true := by decide
theorem test_close : goesTo (exec .encClose State.reset) (fun t => t.emitting == [0xC0#8]) = true := by decide

/-! ## Checksum vectors -/

theorem test_crc_clear : goesTo (exec .crcClear { State.reset with acc := 0xFF#8 }) (fun t => t.acc == 0x00#8) = true := by decide
/-- CT1's second line: from `C0`, absorbing `42` leaves `87`. -/
theorem test_crc_step : goesTo (exec (.crcStep 0x42#8) { State.reset with acc := 0xC0#8 }) (fun t => t.acc == 0x87#8) = true := by
  decide +kernel
/-- CV14, CV15, CV18. -/
theorem test_crc_vectors : crc8 [0x31#8, 0x32#8, 0x33#8, 0x34#8, 0x35#8, 0x36#8, 0x37#8, 0x38#8, 0x39#8] = 0xF4#8 ∧
    crc8 [0x41#8, 0x42#8, 0x87#8] = 0x00#8 ∧ crc8 [0xC0#8, 0xDB#8, 0x7E#8, 0xDC#8, 0xDD#8, 0xDE#8] = 0x2C#8 := by decide +kernel

/-! ## Processor vectors -/

/-- PV2. -/
theorem test_frame_bad : goesTo (exec (.procFrame 3) (during [.closeFrame] [] [0x41#8, 0x42#8, 0x00#8]))
    (fun t => t.emitting == [0xDB#8, 0xDE#8, 0xC0#8, 0xFF#8, 0x01#8, 0xD0#8, 0xC0#8] && t.calls == [] &&
      t.rb == bytes [0xFF#8, 0x01#8, 0xD0#8]) = true := by decide +kernel
/-- PV12: the frame of 256 bytes, its request of 255. -/
theorem test_dispatch_full : exec .procDispatch { full with frameLen := 256 } =
    .next (push .awaitReply (logCall ⟨List.replicate 255 0x00#8, 255, 255⟩ { full with frameLen := 256 })) := by
  rw [← full_fbRange (by decide)]; rfl
theorem test_split : goesTo (exec (.procSplit 2) (during [] [] [0x01#8, 0x07#8]))
    (fun t => t.frameLen == 2 && t.received == 0x07#8) = true := by decide +kernel
theorem test_verify : goesTo (exec .procVerify { during [] [] [0x10#8, 0x70#8] with received := 0x70#8, matched := false })
    (fun t => t.matched && t.expected == 0x70#8 && t.acc == 0x70#8) = true := by decide +kernel
theorem test_err_checksum : goesTo (exec .procErrChecksum State.reset)
    (fun t => t.emitting == [0xDB#8, 0xDE#8, 0xC0#8, 0xFF#8, 0x01#8, 0xD0#8, 0xC0#8]) = true := by decide +kernel
theorem test_dispatch : goesTo (exec .procDispatch (during [.closeFrame] [] [0x41#8, 0x42#8, 0x87#8]))
    (fun t => t.calls == [⟨[0x41#8, 0x42#8], 2, 255⟩] && t.ctl == [.awaitReply, .closeFrame]) = true := by decide +kernel
/-- PV5: a checksum that needs escaping. -/
theorem test_respond : goesTo (exec .procRespond { State.reset with rb := bytes [0x41#8], responseLen := 1 })
    (fun t => t.emitting == [0xDB#8, 0xDE#8, 0xC0#8, 0x41#8, 0xDB#8, 0xDC#8, 0xC0#8] && t.rb == bytes [0x41#8, 0xC0#8]) = true := by
  decide +kernel
/-- PV9. -/
theorem test_respond_breach : faults (exec .procRespond { State.reset with responseLen := 256 }) .dispatchContractViolation = true := by
  decide
theorem test_err_dispatch : goesTo (exec .procErrDispatch State.reset)
    (fun t => t.emitting == [0xDB#8, 0xDE#8, 0xC0#8, 0xFF#8, 0x02#8, 0xD9#8, 0xC0#8] && t.rb == bytes [0xFF#8, 0x02#8, 0xD9#8]) =
    true := by decide +kernel
theorem test_send_error : goesTo (exec (.procSendError .dispatchFailure) State.reset) (fun t => t.acc == 0xD9#8) = true := by
  decide +kernel

/-! ## Witnesses: states and operands that meet the statements' hypotheses -/

/-- A quiet core meets the invariant. -/
theorem quiet_inv {d : DState} {c : Nat} {fb : List Byte} (inp : List (Option Byte)) (hc : c ≤ 256) (hd : d = .idle → c = 0)
    (hf : (bytes fb).wf 256 = true) : CoreInv (quiet d c fb inp) :=
  ⟨hc, hf, rfl, hd, rfl, fun _ => ⟨rfl, rfl⟩, fun h => by simp [quiet, State.reset] at h, fun h => by simp [quiet, State.reset] at h⟩

/-- So does a core in the middle of a Feed. -/
theorem during_inv {ctl : List Pending} {em fb : List Byte} (h2 : 2 ≤ fb.length) (h256 : fb.length ≤ 256)
    (hf : (bytes fb).wf 256 = true) (hs : ctlShape ctl = true) (hn : ctl ≠ [])
    (hw : Pending.branchOnStatus ∈ ctl → em = []) : CoreInv (during ctl em fb) :=
  ⟨h256, hf, rfl, fun h => by simp [during] at h, hs, fun h => by simp [during] at h, fun _ => ⟨hn, rfl, h2, rfl⟩,
    fun h => ⟨rfl, hw h⟩⟩

/-- A quiet core in Receiving with the frame `fb` and the closing marker on offer. -/
def closing (fb : List Byte) : State := quiet .receiving fb.length fb [some 0xC0#8, some 0x41#8]

theorem witness_StepKeepsTheInvariant : ∃ s t, CoreInv s ∧ step s = .next t ∧ t.busy = true := by
  obtain ⟨t, h⟩ := exists_of_goesTo (o := step (closing [0x01#8, 0x00#8])) (p := State.busy) (by decide +kernel)
  exact ⟨closing [0x01#8, 0x00#8], t, quiet_inv _ (by decide) (by decide) (by decide), h⟩

theorem witness_ResetAtAnyTimeAbandonsTheFeed :
    (∃ s : State, s.resets = .reset :: [] ∧ s.busy = true ∧ s.emitting ≠ []) ∧
    (∃ s : State, s.resets = .resetAfterTake :: [.keepRunning] ∧ s.busy = false ∧ s.input = some 0xC0#8 :: []) :=
  ⟨⟨{ during [.closeFrame] [0xC0#8] [0x01#8, 0x00#8] with resets := [.reset] }, by decide⟩,
   ⟨{ quiet .idle 0 [] [some 0xC0#8] with resets := [.resetAfterTake, .keepRunning] }, by decide⟩⟩

theorem witness_StepRunsTheSelectedOperation : ∃ s : State, s.resets = [] ∧ s.busy = false ∧ s.input = some 0xDB#8 :: [none] :=
  ⟨quiet .receiving 256 [] [some 0xDB#8, none], by decide⟩

theorem witness_StepIsExecOfTheDecodedByte : ∃ s : State, s.resets = [] ∧ s.busy = false ∧ s.input = some 0x41#8 :: [] ∧
    decode (.inputByte s.dstate s.cursor 0x41#8) = .ok (.rxOverflow 0x41#8) :=
  ⟨quiet .receiving 256 [] [some 0x41#8], by decide⟩

theorem witness_ExactlyOneTableRowIsSelected :
    inputRows.filter (fun r => r.selects .receiving 256 0x41#8) =
      [⟨"RX.OVERFLOW", 0x00#8, 0x00#8, .receiving, [0xC0#8, 0xDB#8], some false⟩] ∧ 256 ≤ 256 := by decide +kernel

theorem witness_DecodeOfEncodeIsTheOperation : (Instr.procFrame 256).wf = true ∧ (Instr.rxOverflow 0xDE#8).wf = true ∧
    (Instr.encByteLit 0xDC#8).wf = true := by decide

theorem witness_EncodeOfDecodeIsTheSelection : decode (.inputByte .receiving 256 0x00#8) = .ok (.rxOverflow 0x00#8) ∧
    decode (.payloadByte 0xDB#8) = .ok .encByteEsc ∧ decode (.event (.sendCall 256)) = .ok (.encSend 256) := by decide

theorem witness_BoundaryInReceivingClosesTheFrame :
    (quiet .receiving 1 [] []).cursor ≤ 1 ∧ 1 < (quiet .receiving 2 [] []).cursor ∧
    (1 < (quiet .receiving 256 [] []).cursor ∧ (quiet .receiving 256 [] []).cursor ≤ 256) ∧
    (let s := during [.closeFrame] [] [0x01#8, 0x00#8]
     s.resets = [] ∧ s.busy = true ∧ s.emitting = [] ∧ s.ctl = [.closeFrame]) := by decide

theorem witness_DataByteIsAppendedAtTheCursor : (quiet .receiving 255 [] []).cursor < 256 := by decide

theorem witness_EscapeCodesResolveToLiteralBytes :
    (quiet .escaped 255 [] []).cursor < 256 ∧ 256 ≤ (quiet .escaped 256 [] []).cursor := by decide

theorem witness_AppendChangesOneFrameByte :
    (∃ t, (quiet .receiving 255 [] []).cursor < 256 ∧ exec (.rxData 0x41#8) (quiet .receiving 255 [] []) = .next t) ∧
    (∃ t, (quiet .escaped 255 [] []).cursor < 256 ∧ exec .escEscEnd (quiet .escaped 255 [] []) = .next t) ∧
    (∃ t, (quiet .escaped 0 [] []).cursor < 256 ∧ exec .escEscEsc (quiet .escaped 0 [] []) = .next t) :=
  ⟨⟨_, by decide, rfl⟩, ⟨_, by decide, rfl⟩, ⟨_, by decide, rfl⟩⟩

theorem witness_BufferResetsKeepEveryByte :
    (∃ t, exec .idleEnd (quiet .idle 0 [] []) = .next t) ∧ (∃ t, exec (.idleOther 0x41#8) (quiet .idle 0 [] []) = .next t) ∧
    (∃ t, (quiet .receiving 1 [] []).cursor ≤ 1 ∧ exec .rxEnd (quiet .receiving 1 [] []) = .next t) ∧
    (∃ t, exec .rxEsc (quiet .receiving 256 [] []) = .next t) ∧
    (∃ t, exec (.rxOverflow 0x41#8) (quiet .receiving 256 [] []) = .next t) ∧
    (∃ t, exec (.escOther 0xC0#8) (quiet .escaped 7 [] []) = .next t) ∧
    (∃ t, 256 ≤ (quiet .escaped 256 [] []).cursor ∧ exec .escEscEnd (quiet .escaped 256 [] []) = .next t) ∧
    (∃ t, 256 ≤ (quiet .escaped 256 [] []).cursor ∧ exec .escEscEsc (quiet .escaped 256 [] []) = .next t) :=
  ⟨⟨_, rfl⟩, ⟨_, rfl⟩, ⟨_, by decide, rfl⟩, ⟨_, rfl⟩, ⟨_, rfl⟩, ⟨_, rfl⟩, ⟨_, by decide, rfl⟩, ⟨_, by decide, rfl⟩⟩

/-- The lengths at both ends of each statement's range: delivery, send, unit, split, verify, dispatch, respond, frame. -/
theorem witness_length_bounds :
    (2 ≤ 2 ∧ 2 ≤ 256 ∧ 2 ≤ 256 ∧ 256 ≤ 256) ∧                                                        -- DeliveryRunsTheFrameProcessor
    (0 ≤ 256 ∧ 256 ≤ 256 ∧ 256 < 257) ∧                                                              -- SendEmitsTheUnitOfThePayload
    (1 ≤ ([0xC0#8] : List Byte).length ∧ zeros.length ≤ 256) ∧                                        -- UnitLengthCountsTheEscapes
    (1 ≤ 1 ∧ 256 ≤ 256) ∧                                                                            -- SplitReadsTheLastByteAsChecksum
    (State.reset.frameLen ≤ 257 ∧ ({ full with frameLen := 257 } : State).frameLen ≤ 257) ∧
                                                                  -- VerifyComparesTheChecksums, DispatchCallsOnceAndTakesTheReply
    (({ State.reset with responseLen := 255 } : State).responseLen ≤ 255 ∧
      255 < ({ State.reset with responseLen := 256 } : State).responseLen) ∧                          -- RespondAppendsTheChecksumAndSends
    ((1 < 2 ∨ 256 < 1) ∧ (257 < 2 ∨ 256 < 257)) := by decide +kernel                                      -- FrameOperationFollowsTheVerdict

theorem witness_IndexesOutsideFBFault : 256 ≤ full.cursor ∧ (0 = 0 ∨ 256 < 0) ∧ (257 = 0 ∨ 256 < 257) ∧
    257 < ({ full with frameLen := 258 } : State).frameLen := by decide +kernel

theorem witness_EscapedPayloadHoldsNoMarker : esc [0xC0#8] = [] ++ (0xDB#8 : Byte) :: [0xDC#8] ∧
    esc [0x41#8, 0xDB#8] = [0x41#8] ++ (0xDB#8 : Byte) :: [0xDD#8] := by decide

theorem witness_DispatchCallsOnceAndTakesTheReply : ∃ (s : State) (r : Reply), s.resets = [] ∧ s.busy = true ∧ s.emitting = [] ∧
    s.ctl = .awaitReply :: .branchOnStatus :: [.closeFrame] ∧ s.replies = some r :: [] ∧ (∀ c ∈ r.writes, c.1 < 255) ∧
    r.frameWrites = [] ∧ r.writes ≠ [] :=
  ⟨{ during [.awaitReply, .branchOnStatus, .closeFrame] [] [0x01#8, 0x07#8] with
      replies := [some ⟨.success, 255, [(254, 0x99#8)], []⟩] }, ⟨.success, 255, [(254, 0x99#8)], []⟩, by decide⟩

theorem witness_FrameOperationFollowsTheVerdict :
    (let s := during [] [] [0x01#8, 0x00#8]; crc8 (s.fbRange (2 - 1)) ≠ s.fbByte (2 - 1)) ∧
    (∀ st ∈ [Status.success, .failure],
      let s := { during [.branchOnStatus, .closeFrame] [] [0x01#8, 0x07#8] with status := st }
      s.resets = [] ∧ s.busy = true ∧ s.emitting = [] ∧ s.ctl = .branchOnStatus :: .closeFrame :: [] ∧ s.status = st) := by
  decide +kernel

/-- The second clause, at the longest frame. -/
theorem witness_FrameOperationFollowsTheVerdict_full : crc8 (full.fbRange (256 - 1)) = full.fbByte (256 - 1) := by
  rw [full_fbRange (by decide), full_fbByte _ (by decide), crc8_zeros]

theorem witness_ProcessorStoresOnlyTheStagedBytes : (∃ t, exec .procErrChecksum State.reset = .next t) ∧
    (∃ t, exec .procErrDispatch State.reset = .next t) ∧
    (∃ t, exec .procRespond { State.reset with responseLen := 0 } = .next t) := by
  have k : ∀ {o : Result}, goesTo o (fun _ => true) = true → ∃ t, o = .next t := fun h =>
    let ⟨t, h, _⟩ := exists_of_goesTo h; ⟨t, h⟩
  exact ⟨k (by decide +kernel), k (by decide +kernel), k (by decide +kernel)⟩

theorem witness_NonStoringOperationsKeepBothBuffers :
    (∃ t, exec .encResync State.reset = .next t) ∧ (∃ t, exec .encOpen State.reset = .next t) ∧
    (∃ t, exec .encByteEnd State.reset = .next t) ∧ (∃ t, exec .encByteEsc State.reset = .next t) ∧
    (∃ t, exec (.encByteLit 0xDE#8) State.reset = .next t) ∧ (∃ t, exec .encClose State.reset = .next t) ∧
    (∃ t, exec (.encSend 0) State.reset = .next t) ∧ (∃ t, exec .crcClear State.reset = .next t) ∧
    (∃ t, exec (.crcStep 0xFF#8) State.reset = .next t) ∧ (∃ t, exec (.procSplit 256) State.reset = .next t) ∧
    (∃ t, exec .procVerify (during [] [] [0x01#8, 0x07#8]) = .next t) ∧
    (∃ t, exec .procDispatch (during [] [] [0x01#8, 0x07#8]) = .next t) :=
  ⟨⟨_, rfl⟩, ⟨_, rfl⟩, ⟨_, rfl⟩, ⟨_, rfl⟩, ⟨_, rfl⟩, ⟨_, rfl⟩, ⟨_, rfl⟩, ⟨_, rfl⟩, ⟨_, rfl⟩, ⟨_, rfl⟩, ⟨_, rfl⟩, ⟨_, rfl⟩⟩

/-- A state with the response `FF code`. -/
def reserved (code : Byte) : State := { State.reset with rb := bytes [0xFF#8, code], responseLen := 2 }

theorem witness_ReservedResponsesLookLikeErrors :
    (∀ c : Byte, (reserved c).responseLen = 2 ∧ (reserved c).rbByte 0 = 0xFF#8 ∧ (reserved c).rbByte 1 = c) ∧
    (∃ t u, exec .procErrChecksum (reserved 0x01#8) = .next u ∧ exec .procRespond (reserved 0x01#8) = .next t) ∧
    (∃ t u, exec .procErrDispatch (reserved 0x02#8) = .next u ∧ exec .procRespond (reserved 0x02#8) = .next t) := by
  have k : ∀ {o : Result}, goesTo o (fun _ => true) = true → ∃ t, o = .next t := fun h =>
    let ⟨t, h, _⟩ := exists_of_goesTo h; ⟨t, h⟩
  obtain ⟨u, hu⟩ := k (o := exec .procErrChecksum (reserved 0x01#8)) (by decide +kernel)
  obtain ⟨t, ht⟩ := k (o := exec .procRespond (reserved 0x01#8)) (by decide +kernel)
  obtain ⟨v, hv⟩ := k (o := exec .procErrDispatch (reserved 0x02#8)) (by decide +kernel)
  obtain ⟨w, hw⟩ := k (o := exec .procRespond (reserved 0x02#8)) (by decide +kernel)
  exact ⟨fun c => ⟨rfl, rfl, rfl⟩, ⟨t, u, hu, ht⟩, ⟨w, v, hv, hw⟩⟩

theorem witness_PollWithoutAByteChangesNothing :
    (∃ s : State, s.resets = [] ∧ s.busy = false ∧ s.input = none :: [some 0xC0#8]) ∧
    (∃ s : State, s.resets = [] ∧ s.busy = false ∧ s.input = []) :=
  ⟨⟨quiet .idle 0 [] [none, some 0xC0#8], by decide⟩, ⟨quiet .escaped 256 [] [], by decide⟩⟩

/-- BusyCoreTakesNoInput, StreamsMoveForwardOnly. -/
theorem witness_busy_step : ∃ s t, s.busy = true ∧ s.input ≠ [] ∧ step s = .next t :=
  ⟨{ during [.closeFrame] [0xC0#8] [0x01#8, 0x00#8] with input := [some 0x41#8] }, _, by decide, by decide, rfl⟩

theorem witness_EmitWaitsForTheSink : ∀ sk ∈ [[true], [false], []],
    let s := { during [.closeFrame] [0xDB#8, 0xDE#8] [0x01#8, 0x00#8] with sink := sk }
    s.resets = [] ∧ s.busy = true ∧ s.ctl ≠ [] ∧ s.emitting = 0xDB#8 :: [0xDE#8] ∧ s.sink = sk ∧ s.sinkOpen = true := by decide

theorem witness_StuckStatesDoNotMove :
    (∃ (s : State) (k : List Pending), s.resets = [] ∧ s.busy = true ∧ s.emitting = [] ∧ s.ctl = .awaitReply :: k ∧ s.replies = []) ∧
    (∃ s : State, s.resets = [] ∧ s.busy = true ∧ s.emitting = 0xC0#8 :: [] ∧ s.sink = [] ∧ s.sinkOpen = false) :=
  ⟨⟨during [.awaitReply, .branchOnStatus, .closeFrame] [] [0x01#8, 0x07#8], [.branchOnStatus, .closeFrame], by decide⟩,
   ⟨{ during [.closeFrame] [0xC0#8] [0x01#8, 0x00#8] with sinkOpen := false }, by decide⟩⟩

theorem witness_DispatcherBreachIsAFault :
    (∃ (s : State) (r : Reply), s.resets = [] ∧ s.busy = true ∧ s.emitting = [] ∧ s.ctl = .awaitReply :: [.branchOnStatus, .closeFrame] ∧
      s.replies = some r :: [] ∧ (∃ c ∈ r.writes, 255 ≤ c.1)) ∧
    (∃ (s : State) (r : Reply), s.resets = [] ∧ s.busy = true ∧ s.emitting = [] ∧ s.ctl = .awaitReply :: [.branchOnStatus, .closeFrame] ∧
      s.replies = some r :: [] ∧ r.frameWrites ≠ []) ∧
    (∃ s : State, s.resets = [] ∧ s.busy = true ∧ s.emitting = [] ∧ s.ctl = .branchOnStatus :: [.closeFrame] ∧ s.status = .success ∧
      255 < s.responseLen) :=
  ⟨⟨{ during [.awaitReply, .branchOnStatus, .closeFrame] [] [0x01#8, 0x07#8] with
        replies := [some ⟨.success, 0, [(255, 0x00#8)], []⟩] }, ⟨.success, 0, [(255, 0x00#8)], []⟩, by decide⟩,
   ⟨{ during [.awaitReply, .branchOnStatus, .closeFrame] [] [0x01#8, 0x07#8] with
        replies := [some ⟨.failure, 0, [], [(0, 0x00#8)]⟩] }, ⟨.failure, 0, [], [(0, 0x00#8)]⟩, by decide⟩,
   ⟨{ during [.branchOnStatus, .closeFrame] [] [0x01#8, 0x07#8] with status := .success, responseLen := 256 }, by decide⟩⟩

theorem full_inv : CoreInv full :=
  ⟨by decide, by decide +kernel, rfl, fun h => by simp [full, quiet] at h, rfl, fun _ => ⟨rfl, rfl⟩,
    fun h => by simp [full, quiet, State.reset] at h, fun h => by simp [full, quiet, State.reset] at h⟩

theorem witness_OnlyTheDispatcherCanStopTheCore : CoreInv full := full_inv

theorem witness_EscapedIsEnteredOnlyFromReceiving : ∃ s t, step s = .next t ∧ t.dstate = .escaped :=
  ⟨quiet .receiving 256 [] [some 0xDB#8], _, rfl, rfl⟩

theorem witness_FrameBufferChangesOnlyAtTheCursor : ∃ s t, step s = .next t ∧ t.epoch = s.epoch ∧ t.fb ≠ s.fb :=
  ⟨quiet .escaped 255 [] [some 0xDC#8], _, rfl, rfl, by decide⟩

theorem witness_ResponseBufferChangesOnlyWhileProcessing :
    (∃ s t, s.busy = true ∧ step s = .next t ∧ t.epoch = s.epoch ∧ t.rb ≠ s.rb) ∧
    (∃ s t, s.busy = false ∧ step s = .next t ∧ t.epoch = s.epoch ∧ t.rb ≠ s.rb) := by
  have k : ∀ s, goesTo (step s) (fun t => decide (t.epoch = s.epoch ∧ t.rb ≠ s.rb)) = true →
      ∃ t, step s = .next t ∧ t.epoch = s.epoch ∧ t.rb ≠ s.rb := fun s h =>
    let ⟨t, h, hp⟩ := exists_of_goesTo h; ⟨t, h, of_decide_eq_true hp⟩
  exact ⟨⟨{ during [.branchOnStatus, .closeFrame] [] [0x01#8, 0x07#8] with status := .failure },
      let ⟨t, h⟩ := k _ (by decide +kernel); ⟨t, rfl, h⟩⟩,
    ⟨closing [0x01#8, 0x00#8], let ⟨t, h⟩ := k _ (by decide +kernel); ⟨t, rfl, h⟩⟩⟩

theorem witness_UndeliveredBytesAreSilent : ∃ s rest, CoreInv s ∧ s.resets = [] ∧ s.busy = false ∧ s.input = some 0xC0#8 :: rest ∧
    ¬(s.dstate = .receiving ∧ (0xC0#8 : Byte) = 0xC0#8 ∧ 2 ≤ s.cursor) :=
  ⟨quiet .receiving 1 [0x07#8] [some 0xC0#8], [], quiet_inv _ (by decide) (by decide) (by decide), rfl, rfl, rfl, by decide⟩

theorem witness_BytesBeforeABoundaryAreLost : ∃ s : State, s.resets = [] ∧ s.busy = false ∧ s.ctl = [] ∧ s.emitting = [] ∧
    s.dstate = .idle ∧ (0xC0#8 : Byte) ∉ ([0xDB#8, 0xDE#8] : List Byte) ∧
    s.input = ([0xDB#8, 0xDE#8] : List Byte).map some ++ [some 0xC0#8] :=
  ⟨quiet .idle 0 [] [some 0xDB#8, some 0xDE#8, some 0xC0#8], by decide⟩

/-- At full capacity: 255 bytes are there, an escape pair brings the last, an escape marker follows. -/
theorem witness_FrameBufferHoldsTheDeEscapedBytes : ∃ s : State, s.resets = [] ∧ s.busy = false ∧ s.ctl = [] ∧ s.emitting = [] ∧
    s.dstate = .receiving ∧ unescape [0xDB#8, 0xDD#8] = some [0xDB#8] ∧ s.cursor + ([0xDB#8] : List Byte).length ≤ 256 ∧
    s.input = ([0xDB#8, 0xDD#8] : List Byte).map some ++ some 0xDB#8 :: [] :=
  ⟨quiet .receiving 255 [] [some 0xDB#8, some 0xDD#8, some 0xDB#8], by decide⟩

theorem witness_UnitFedToAnIdleCoreDeliversItsPayload :
    (∃ s, CoreInv s ∧ s.resets = [] ∧ s.busy = false ∧ s.dstate = .idle ∧
      s.input = (unit [0x01#8, 0x07#8]).map some ++ [] ∧ 2 ≤ ([0x01#8, 0x07#8] : List Byte).length) ∧
    (∃ s, CoreInv s ∧ s.resets = [] ∧ s.busy = false ∧ s.dstate = .idle ∧
      s.input = (unit (List.replicate 256 0xC0#8)).map some ++ [] ∧ (List.replicate 256 (0xC0#8 : Byte)).length ≤ 256) ∧
    (∃ s, CoreInv s ∧ s.resets = [] ∧ s.busy = false ∧ s.dstate = .idle ∧
      s.input = (unit [0x07#8]).map some ++ [none] ∧ ([0x07#8] : List Byte).length ≤ 1) :=
  ⟨⟨quiet .idle 0 [] _, quiet_inv _ (by decide) (by decide) (by decide), rfl, rfl, rfl, rfl, by decide⟩,
   ⟨quiet .idle 0 [] _, quiet_inv _ (by decide) (by decide) (by decide), rfl, rfl, rfl, rfl, Nat.le_of_eq List.length_replicate⟩,
   ⟨quiet .idle 0 [] _, quiet_inv _ (by decide) (by decide) (by decide), rfl, rfl, rfl, rfl, by decide⟩⟩

theorem witness_OutOfPhaseCoreLosesEveryUnit : ∀ d ∈ [DState.receiving, .escaped],
    ∃ s, CoreInv s ∧ s.resets = [] ∧ s.busy = false ∧ s.dstate = d ∧ s.dstate ≠ .idle ∧
      s.input = (unit [0x41#8, 0x42#8, 0x87#8]).map some ++ [] := by
  intro d hd
  have hd' : d ≠ .idle := by rintro rfl; simp at hd
  exact ⟨quiet d 3 [] _, quiet_inv _ (by decide) (fun h => absurd h hd') (by decide), rfl, rfl, rfl, hd', rfl⟩

theorem witness_BadChecksumIsAnsweredByTheErrorUnit : ∃ s rest, CoreInv s ∧ Willing s ∧ s.busy = false ∧ s.dstate = .receiving ∧
    2 ≤ s.cursor ∧ s.input = some 0xC0#8 :: rest ∧ crc8 (s.fbRange (s.cursor - 1)) ≠ s.fbByte (s.cursor - 1) :=
  ⟨closing [0x41#8, 0x42#8, 0x00#8], _, quiet_inv _ (by decide) (by decide) (by decide), ⟨rfl, rfl⟩, rfl, rfl, by decide, rfl,
    by decide +kernel⟩

/-- With the dispatcher's reply on its way. -/
def closingWith (fb : List Byte) (r : Reply) : State := { closing fb with replies := [none, none, some r, none] }

theorem closingWith_inv {fb : List Byte} (r : Reply) (hc : fb.length ≤ 256) (hf : (bytes fb).wf 256 = true) :
    CoreInv (closingWith fb r) :=
  ⟨hc, hf, rfl, fun h => by simp [closingWith, closing, quiet] at h, rfl, fun _ => ⟨rfl, rfl⟩,
    fun h => by simp [closingWith, closing, quiet, State.reset] at h,
    fun h => by simp [closingWith, closing, quiet, State.reset] at h⟩

theorem witness_DispatchFailureIsAnsweredByTheErrorUnit : ∃ s rest k r more, CoreInv s ∧ Willing s ∧ s.busy = false ∧
    s.dstate = .receiving ∧ 2 ≤ s.cursor ∧ s.input = some 0xC0#8 :: rest ∧
    crc8 (s.fbRange (s.cursor - 1)) = s.fbByte (s.cursor - 1) ∧ NextReply s k r more ∧ r.writesInContract = true ∧
    r.status = .failure :=
  ⟨closingWith [0x41#8, 0x42#8, 0x87#8] ⟨.failure, 300, [], []⟩, _, 2, _, _, closingWith_inv _ (by decide) (by decide), ⟨rfl, rfl⟩,
    rfl, rfl, by decide, rfl, by decide +kernel, rfl, rfl, rfl⟩

theorem witness_SuccessIsAnsweredByTheResponseUnit : ∃ s rest k r more, CoreInv s ∧ Willing s ∧ s.busy = false ∧
    s.dstate = .receiving ∧ 2 ≤ s.cursor ∧ s.input = some 0xC0#8 :: rest ∧
    crc8 (s.fbRange (s.cursor - 1)) = s.fbByte (s.cursor - 1) ∧ NextReply s k r more ∧ r.writesInContract = true ∧
    r.status = .success ∧ r.responseLen ≤ 255 :=
  ⟨closingWith [0x41#8, 0x42#8, 0x87#8] ⟨.success, 255, [(254, 0xC0#8)], []⟩, _, 2, _, _,
    closingWith_inv _ (by decide) (by decide), ⟨rfl, rfl⟩, rfl, rfl, by decide, rfl, by decide +kernel, rfl, by decide +kernel, rfl,
    by decide⟩

theorem witness_RequestUnitIsAnsweredEndToEnd : ∃ a s rest k r more, CoreInv s ∧ Willing s ∧ s.busy = false ∧ s.dstate = .idle ∧
    1 ≤ a.length ∧ a.length ≤ 255 ∧ s.input = (reqOf a).map some ++ rest ∧ NextReply s k r more ∧ r.writesInContract = true ∧
    r.status = .success ∧ r.responseLen ≤ 255 :=
  ⟨[0x41#8, 0x42#8], { quiet .idle 0 [] ((reqOf [0x41#8, 0x42#8]).map some ++ [none]) with replies := [some (replyOf .success [0x99#8])] },
    _, 0, _, _,
    ⟨by decide, rfl, rfl, fun _ => rfl, rfl, fun _ => ⟨rfl, rfl⟩, fun h => by simp [quiet, State.reset] at h,
      fun h => by simp [quiet, State.reset] at h⟩,
    ⟨rfl, rfl⟩, rfl, rfl, by decide, by decide, rfl, rfl, rfl, rfl, by decide⟩

theorem witness_BusyCoreBecomesReadyAgain :
    (∃ s, CoreInv s ∧ Willing s ∧ s.busy = true ∧ Pending.awaitReply ∉ s.ctl ∧ s.sink = [false, true]) ∧
    (∃ s k r more, CoreInv s ∧ Willing s ∧ s.busy = true ∧ Pending.awaitReply ∈ s.ctl ∧ NextReply s k r more) := by
  constructor
  · refine ⟨{ during [.closeFrame] [0xC0#8] [0x01#8, 0x00#8] with sink := [false, true] }, ?_, ⟨rfl, rfl⟩, rfl, by decide, rfl⟩
    exact ⟨by decide, rfl, rfl, fun h => by simp [during] at h, rfl, fun h => by simp [during] at h,
      fun _ => ⟨by decide, rfl, by decide, rfl⟩, fun h => by simp [during] at h⟩
  · refine ⟨{ during [.awaitReply, .branchOnStatus, .closeFrame] [] [0x01#8, 0x07#8] with
        replies := [none, some (replyOf .success [])] }, 1, _, [], ?_, ⟨rfl, rfl⟩, rfl, by decide, rfl⟩
    exact ⟨by decide, rfl, rfl, fun h => by simp [during] at h, rfl, fun h => by simp [during] at h,
      fun _ => ⟨by decide, rfl, by decide, rfl⟩, fun _ => ⟨rfl, rfl⟩⟩

/-- Two states that differ in a byte above the cursor, in RB and in `acc`. -/
theorem witness_UnusedBufferBytesAreUnobservable : ∃ s t, CoreInv s ∧ CoreInv t ∧ s.busy = false ∧ RepliesCover s ∧
    t = { s with fb := t.fb, rb := t.rb, acc := t.acc } ∧ (∀ i, i < s.cursor → t.fbByte i = s.fbByte i) ∧ t.fb ≠ s.fb ∧
    t.rb ≠ s.rb ∧ t.acc ≠ s.acc := by
  refine ⟨closingWith [0x41#8] (replyOf .success [0x99#8]),
    { closingWith [0x41#8] (replyOf .success [0x99#8]) with fb := bytes [0x41#8, 0x42#8], rb := bytes [0x07#8], acc := 0xFF#8 },
    closingWith_inv _ (by decide) (by decide), ?_, rfl, ?_, rfl, ?_, by decide, by decide, by decide⟩
  · exact ⟨by decide, rfl, rfl, fun h => by simp [closingWith, closing, quiet] at h, rfl, fun _ => ⟨rfl, rfl⟩,
      fun h => by simp [closingWith, closing, quiet, State.reset] at h,
      fun h => by simp [closingWith, closing, quiet, State.reset] at h⟩
  · intro r hr _ i hi
    have : r = replyOf .success [0x99#8] := by simpa [closingWith] using hr
    subst this
    have : i = 0 := by simp [replyOf] at hi; exact hi
    subst this; decide
  · intro i hi
    have : i = 0 := by simpa [closingWith, closing, quiet] using hi
    subst this; decide +kernel

end Sys2Proof.Tests
end

/-! The state family: reset (R31, R230), the invariant of the core (O3), who may change `dstate` and FB (R22), and which
bytes cannot be observed (R30). -/

namespace Sys2Proof.Machine

open Config

/-! ## What an input byte does -/

/-- The five things an input byte can do in state `d` at cursor `c`, with the guards of R100's case distinction (R101 to R109). -/
inductive ByteEffect (d : DState) (c : Nat) (b : Byte) : (State → Result) → Prop where
  | ignores : d = .idle → ByteEffect d c b fun s => .next s
  | drops (d' : DState) : d' ≠ .escaped → ByteEffect d c b fun s => .next (setDState d' (resetBuffer s))
  | escapes : d = .receiving → b = escByte → ByteEffect d c b fun s => .next (setDState .escaped s)
  | stores (v : Byte) : d = .receiving ∨ d = .escaped → c < capFB →
      ByteEffect d c b fun s => .next (setDState .receiving (appendByte v s))
  | delivers : d = .receiving → b = endByte → minFrame ≤ c → ByteEffect d c b fun s => execProcFrame c (push .closeFrame s)

/-- R107 and R108 append or drop. -/
theorem resolveEscape_effect (c : Nat) (b v : Byte) :
    ∃ f, ByteEffect .escaped c b f ∧ ∀ s : State, s.cursor = c → Host.Outcome.next (resolveEscape v s) = f s := by
  by_cases hc : c < capFB
  · exact ⟨_, .stores v (.inr rfl) hc, fun s hs => by simp only [resolveEscape, hs, if_pos hc]⟩
  · exact ⟨_, .drops .receiving (by decide), fun s hs => by simp only [resolveEscape, hs, if_neg hc]⟩

/-- Which of the five a byte does is fixed by `dstate`, the cursor and the byte. -/
theorem feed_effect (d : DState) (c : Nat) (b : Byte) :
    ∃ f, ByteEffect d c b f ∧ ∀ s : State, s.dstate = d → s.cursor = c → feed b s = f s := by
  cases d with
  | idle =>
    by_cases hb : b = endByte
    · exact ⟨_, .drops .receiving (by decide), fun s hd hc => by simp only [feed, hd, decodeInput, if_pos hb]; rfl⟩
    · exact ⟨_, .ignores rfl, fun s hd hc => by simp only [feed, hd, decodeInput, if_neg hb]; rfl⟩
  | receiving =>
    by_cases hb : b = endByte
    · by_cases hm : minFrame ≤ c
      · exact ⟨_, .delivers rfl hb hm, fun s hd hc => by
          simp only [feed, hd, decodeInput, if_pos hb, exec, execRxEnd, hc, if_pos hm, execDecDeliver]⟩
      · exact ⟨_, .drops .idle (by decide), fun s hd hc => by
          simp only [feed, hd, decodeInput, if_pos hb, exec, execRxEnd, hc, if_neg hm, closeFrame]⟩
    · by_cases he : b = escByte
      · exact ⟨_, .escapes rfl he, fun s hd hc => by simp only [feed, hd, decodeInput, if_neg hb, if_pos he]; rfl⟩
      · by_cases hr : c < capFB
        · refine ⟨_, .stores b (.inl rfl) hr, fun s hd hc => ?_⟩
          simp only [feed, hd, decodeInput, if_neg hb, if_neg he, exec, execRxData, hc, if_pos hr]
          simp only [setDState, appendByte, writeFB, ← hd]
        · exact ⟨_, .drops .idle (by decide), fun s hd hc => by
            simp only [feed, hd, decodeInput, if_neg hb, if_neg he, hc, if_neg hr]; rfl⟩
  | escaped =>
    by_cases he : b = escEndByte
    · obtain ⟨f, hf, h⟩ := resolveEscape_effect c b endByte
      exact ⟨f, hf, fun s hd hc => by rw [← h s hc]; simp only [feed, hd, decodeInput, if_pos he]; rfl⟩
    · by_cases hs : b = escEscByte
      · obtain ⟨f, hf, h⟩ := resolveEscape_effect c b escByte
        exact ⟨f, hf, fun s hd hc => by rw [← h s hc]; simp only [feed, hd, decodeInput, if_neg he, if_pos hs]; rfl⟩
      · exact ⟨_, .drops .receiving (by decide), fun s hd hc => by
          simp only [feed, hd, decodeInput, if_neg he, if_neg hs]; rfl⟩

/-- The effect of the byte a core that is not busy takes. -/
theorem takesByte_effect (b : Byte) (rest : List (Option Byte)) (s : State) :
    ∃ f, ByteEffect s.dstate s.cursor b f ∧ feed b (takeInput rest s) = f (takeInput rest s) := by
  obtain ⟨f, hf, h⟩ := feed_effect s.dstate s.cursor b
  exact ⟨f, hf, h _ rfl rfl⟩

/-- The operation chosen by `status` writes RB, `acc` and `emitting` only. -/
theorem statusOp_inv {st : Status} {s t : State} (h : exec (statusOp st) s = .next t) :
    ∃ m a e, t = { s with rb := m, acc := a, emitting := s.emitting ++ e } ∧ (s.rb.wf capRB = true → m.wf capRB = true) := by
  cases st with
  | success => exact (respond_inv h).2
  | failure => exact sendError_inv h

/-! ## The end of a Feed -/

@[simp] theorem endFeed_dstate (s : State) : (endFeed s).dstate = s.dstate := by rw [endFeed_eq]
@[simp] theorem endFeed_cursor (s : State) : (endFeed s).cursor = s.cursor := by rw [endFeed_eq]
@[simp] theorem endFeed_fb (s : State) : (endFeed s).fb = s.fb := by rw [endFeed_eq]
@[simp] theorem endFeed_replies (s : State) : (endFeed s).replies = s.replies := by rw [endFeed_eq]

theorem endFeed_done {s : State} (hk : s.ctl = []) (he : s.emitting = []) : endFeed s = { s with busy := false } := by
  simp [endFeed, hk, he]

/-! ## The invariant -/

/-- A core with nothing of a Feed left. -/
theorem CoreInv.of_ready {s : State} (hc : s.cursor ≤ capFB) (hf : s.fb.wf capFB = true) (hr : s.rb.wf capRB = true)
    (hi : s.dstate = .idle → s.cursor = 0) (hk : s.ctl = []) (he : s.emitting = []) (hb : s.busy = false) : CoreInv s where
  cursor_le := hc
  fb_wf := hf
  rb_wf := hr
  idle_cursor := hi
  shape := by rw [hk]; rfl
  quiet := fun _ => ⟨hk, he⟩
  delivering := fun h => by rw [hb] at h; cases h
  waiting := fun h => by rw [hk] at h; cases h

theorem reset_coreInv : CoreInv State.reset :=
  .of_ready (Nat.zero_le _) reset_wf.1 reset_wf.2 (fun _ => rfl) rfl rfl rfl

theorem resetCore_coreInv (s : State) : CoreInv (resetCore s) :=
  .of_ready (Nat.zero_le _) (resetCore_wf s).1 (resetCore_wf s).2 (fun _ => rfl) rfl rfl rfl

/-- The invariant does not read the environment's coming answers. -/
theorem CoreInv.withAnswers {s : State} (h : CoreInv s) (i : List (Option Byte)) (r : List ResetMove) :
    CoreInv { s with input := i, resets := r } :=
  ⟨h.cursor_le, h.fb_wf, h.rb_wf, h.idle_cursor, h.shape, h.quiet, h.delivering, h.waiting⟩

/-- The end of a Feed of which nothing is left. -/
theorem CoreInv.of_endFeed {s : State} (hc : s.cursor ≤ capFB) (hf : s.fb.wf capFB = true) (hr : s.rb.wf capRB = true)
    (hi : s.dstate = .idle → s.cursor = 0) (hk : s.ctl = []) (he : s.emitting = []) : CoreInv (endFeed s) := by
  rw [endFeed_done hk he]
  exact .of_ready hc hf hr hi hk he rfl

/-- A move of a Feed in progress: the decoder's registers, FB and the frame stay as delivered, and what is left of the Feed has
one of the shapes. -/
theorem CoreInv.of_processing {s t : State} (h : CoreInv s) (hb : s.busy = true)
    (ht : t = { s with rb := t.rb, acc := t.acc, status := t.status, responseLen := t.responseLen, ctl := t.ctl,
                       emitting := t.emitting, out := t.out, replies := t.replies, sink := t.sink })
    (hr : t.rb.wf capRB = true) (hshape : ctlShape t.ctl = true) (hne : t.ctl ≠ [])
    (hwait : Pending.branchOnStatus ∈ t.ctl → s.matched = true ∧ t.emitting = []) : CoreInv (endFeed t) := by
  rw [endFeed_busy (.inl hne)]
  obtain ⟨-, hd, hmin, hlen⟩ := h.delivering hb
  rw [ht]
  exact ⟨h.cursor_le, h.fb_wf, hr, h.idle_cursor, hshape, fun hq => absurd (hb.symm.trans hq) (by decide),
    fun _ => ⟨hne, hd, hmin, hlen⟩, hwait⟩

/-! ### The shapes of the control path -/

theorem ctlShape_awaitReply {k : List Pending} (h : ctlShape (.awaitReply :: k) = true) : k = [.branchOnStatus, .closeFrame] := by
  unfold ctlShape at h; split at h <;> simp_all

theorem ctlShape_branchOnStatus {k : List Pending} (h : ctlShape (.branchOnStatus :: k) = true) : k = [.closeFrame] := by
  unfold ctlShape at h; split at h <;> simp_all

theorem ctlShape_closeFrame {k : List Pending} (h : ctlShape (.closeFrame :: k) = true) : k = [] := by
  unfold ctlShape at h; split at h <;> simp_all

/-! ### The moves keep it -/

/-- PROC.FRAME on the whole frame leaves a busy core with a delivered frame (R110). -/
theorem CoreInv.of_delivery {s u : State} {rest : List (Option Byte)} (h : CoreInv s) (hb : s.busy = false)
    (hd : s.dstate = .receiving) (hu : execProcFrame s.cursor (push .closeFrame (takeInput rest s)) = .next u) :
    CoreInv (endFeed u) := by
  obtain ⟨hk, he⟩ := h.quiet hb
  obtain ⟨hmin, -, ⟨r, x, a, m, e, rfl, hm⟩ | ⟨r, x, a, rfl⟩⟩ := frame_inv hu
  all_goals rw [endFeed_busy (.inl (List.cons_ne_nil _ _))]
  · exact ⟨h.cursor_le, h.fb_wf, hm h.rb_wf, h.idle_cursor, by simp [hk, ctlShape], fun hq => (by cases hq),
      fun _ => ⟨List.cons_ne_nil _ _, hd, hmin, rfl⟩, fun hw => by simp [hk] at hw⟩
  · exact ⟨h.cursor_le, h.fb_wf, h.rb_wf, h.idle_cursor, by simp [hk, ctlShape], fun hq => (by cases hq),
      fun _ => ⟨List.cons_ne_nil _ _, hd, hmin, rfl⟩, fun _ => ⟨rfl, he⟩⟩

/-- Taking a byte keeps the invariant, whatever the byte does. -/
theorem CoreInv.of_feed {s u : State} {b : Byte} {rest : List (Option Byte)} (h : CoreInv s) (hb : s.busy = false)
    (hu : feed b (takeInput rest s) = .next u) : CoreInv (endFeed u) := by
  obtain ⟨hk, he⟩ := h.quiet hb
  obtain ⟨f, hf, hfeed⟩ := takesByte_effect b rest s
  rw [hfeed] at hu
  cases hf with
  | ignores _ => cases hu; exact .of_endFeed h.cursor_le h.fb_wf h.rb_wf h.idle_cursor hk he
  | drops d' _ => cases hu; exact .of_endFeed (Nat.zero_le _) h.fb_wf h.rb_wf (fun _ => rfl) hk he
  | escapes _ _ => cases hu; exact .of_endFeed h.cursor_le h.fb_wf h.rb_wf (fun hi => by cases hi) hk he
  | stores v _ hc =>
    cases hu
    exact .of_endFeed (Nat.succ_le_of_lt hc) (Memory.wf_write v hc h.fb_wf) h.rb_wf (fun hi => by cases hi) hk he
  | delivers hd _ _ => exact h.of_delivery hb hd hu

/-- Every move of the core keeps the invariant. -/
theorem CoreInv.of_advances {s t : State} (h : CoreInv s) (ha : Advances s t) : CoreInv t := by
  cases ha with
  | nothingOffered _ _ => exact h
  | pollNone rest _ _ => exact h.withAnswers rest s.resets
  | takesByte b rest u hb _ hu => exact h.of_feed hb hu
  | emits b bs hb he =>
    have hwait : Pending.branchOnStatus ∉ s.ctl := fun hw => by simpa [he] using h.waiting hw
    obtain ⟨hne, -⟩ := h.delivering hb
    rcases offerByte_cases b bs s with ⟨sk, e⟩ | ⟨sk, e⟩ <;> rw [e] <;>
      exact h.of_processing hb rfl h.rb_wf h.shape hne fun hw => absurd hw hwait
  | nothingLeft hb _ hk => exact absurd hk (h.delivering hb).1
  | noReplyEver k hb he hk _ => exact h.of_processing hb rfl h.rb_wf h.shape (h.delivering hb).1 h.waiting
  | noReplyYet k more hb he hk _ => exact h.of_processing hb rfl h.rb_wf h.shape (h.delivering hb).1 h.waiting
  | reply k r more hb he hk _ hw =>
    obtain rfl := ctlShape_awaitReply (hk ▸ h.shape)
    obtain ⟨hmatch, -⟩ := h.waiting (by simp [hk])
    have hrb := acceptReply_wf (s := { s with replies := more, ctl := [.branchOnStatus, .closeFrame] }) hw h.rb_wf
    rw [acceptReply_eq] at hrb ⊢
    exact h.of_processing hb rfl hrb rfl (List.cons_ne_nil _ _) fun _ => ⟨hmatch, he⟩
  | branches k u hb he hk hu =>
    obtain rfl := ctlShape_branchOnStatus (hk ▸ h.shape)
    obtain ⟨m, a, e, rfl, hm⟩ := statusOp_inv hu
    exact h.of_processing hb rfl (hm h.rb_wf) rfl (List.cons_ne_nil _ _) fun hw => by simp at hw
  | closes k hb he hk =>
    obtain rfl := ctlShape_closeFrame (hk ▸ h.shape)
    exact .of_endFeed (Nat.zero_le _) h.fb_wf h.rb_wf (fun _ => rfl) rfl he

theorem CoreInv.of_step {s t : State} (h : CoreInv s) (hs : step s = .next t) : CoreInv t := by
  rcases step_inv hs with ⟨u, more, rfl, -, -⟩ | ⟨more, ha⟩
  · exact resetCore_coreInv u
  · exact (h.withAnswers s.input more).of_advances ha

/-- Settles O3, by the moves a step can be. -/
theorem stepKeepsTheInvariant : Obligations.StepKeepsTheInvariant := fun _ _ h hs => h.of_step hs

/-- Settles O2. -/
theorem resetMeetsTheInvariant : Obligations.ResetMeetsTheInvariant := reset_coreInv

/-- Settles O1: a buffer in which nothing is written reads as the free value everywhere. -/
theorem resetGivesTheStatedValues : Obligations.ResetGivesTheStatedValues :=
  ⟨rfl, rfl, rfl, rfl, fun _ => rfl, fun _ => rfl⟩

/-! ## Who changes `dstate` and FB -/

/-- A move takes a byte, or leaves FB alone and `dstate` as it is or `Idle`. -/
theorem Advances.takes_or_keeps {s t : State} (h : Advances s t) :
    (∃ b rest u, s.busy = false ∧ s.input = some b :: rest ∧ feed b (takeInput rest s) = .next u ∧ t = endFeed u) ∨
    (t.fb = s.fb ∧ (t.dstate = s.dstate ∨ t.dstate = .idle)) := by
  cases h with
  | takesByte b rest u hb hi hu => exact .inl ⟨b, rest, u, hb, hi, hu, rfl⟩
  | nothingOffered _ _ => exact .inr ⟨rfl, .inl rfl⟩
  | pollNone _ _ _ => exact .inr ⟨rfl, .inl rfl⟩
  | emits b bs _ _ => right; rcases offerByte_cases b bs s with ⟨sk, e⟩ | ⟨sk, e⟩ <;> simp [e]
  | nothingLeft _ _ _ => exact .inr (by simp)
  | noReplyEver _ _ _ _ _ => exact .inr (by simp)
  | noReplyYet _ _ _ _ _ _ => exact .inr (by simp)
  | reply k r more _ _ _ _ _ => exact .inr (by simp [acceptReply_eq])
  | branches k u _ _ _ hu => obtain ⟨m, a, e, rfl, -⟩ := statusOp_inv hu; exact .inr (by simp)
  | closes k _ _ _ => exact .inr (by simp [closeFrame])

/-- PROC.FRAME leaves FB and `dstate` alone. -/
theorem frame_keeps_decoder {len : Nat} {s t : State} (h : execProcFrame len s = .next t) :
    t.fb = s.fb ∧ t.dstate = s.dstate := by
  obtain ⟨-, -, ⟨_, _, _, _, _, rfl, -⟩ | ⟨_, _, _, rfl⟩⟩ := frame_inv h <;> exact ⟨rfl, rfl⟩

/-- A byte that leads to `Escaped` is the escape marker in `Receiving`. -/
theorem feed_escaped {s u : State} {b : Byte} {rest : List (Option Byte)} (hu : feed b (takeInput rest s) = .next u)
    (he : u.dstate = .escaped) : s.dstate = .receiving ∧ b = escByte := by
  obtain ⟨f, hf, hfeed⟩ := takesByte_effect b rest s
  rw [hfeed] at hu
  cases hf with
  | ignores hd => cases hu; exact absurd (hd.symm.trans he) (by decide)
  | drops d' hd' => cases hu; exact absurd he hd'
  | escapes hd hb => exact ⟨hd, hb⟩
  | stores v _ _ => cases hu; cases he
  | delivers hd _ _ => exact absurd (hd.symm.trans ((frame_keeps_decoder hu).2.symm.trans he)) (by decide)

/-- A byte that changes FB is appended at the cursor. -/
theorem feed_stores {s u : State} {b : Byte} {rest : List (Option Byte)} (hu : feed b (takeInput rest s) = .next u)
    (hfb : u.fb ≠ s.fb) : (s.dstate = .receiving ∨ s.dstate = .escaped) ∧ s.cursor < 256 ∧
      ∃ v, u = setDState .receiving (appendByte v (takeInput rest s)) := by
  obtain ⟨f, hf, hfeed⟩ := takesByte_effect b rest s
  rw [hfeed] at hu
  cases hf with
  | ignores _ => cases hu; exact absurd rfl hfb
  | drops d' _ => cases hu; exact absurd rfl hfb
  | escapes _ _ => cases hu; exact absurd rfl hfb
  | stores v hd hc => cases hu; exact ⟨hd, hc, v, rfl⟩
  | delivers _ _ _ => exact absurd (frame_keeps_decoder hu).1 hfb

/-- Settles O47: only a byte taken can lead to `Escaped`, and of those only the escape marker in `Receiving`. -/
theorem escapedIsEnteredOnlyFromReceiving : Obligations.EscapedIsEnteredOnlyFromReceiving := by
  intro s t hs he
  rcases step_inv hs with ⟨u, more, rfl, -, -⟩ | ⟨more, ha⟩
  · cases he
  rcases ha.takes_or_keeps with ⟨b, rest, u, hb, hi, hu, rfl⟩ | ⟨-, hd | hd⟩
  · obtain ⟨hd, rfl⟩ := feed_escaped hu ((endFeed_dstate u).symm.trans he)
    exact .inr ⟨hd, hb, rest, hi⟩
  · exact .inl (hd.symm.trans he)
  · exact absurd (hd.symm.trans he) (by decide)

/-- Settles O48: without a reset only a byte taken can change FB, and then by the append at the cursor. -/
theorem frameBufferChangesOnlyAtTheCursor : Obligations.FrameBufferChangesOnlyAtTheCursor := by
  intro s t hs hepoch hfb
  rcases step_inv hs with ⟨u, more, rfl, hu, -⟩ | ⟨more, ha⟩
  · rw [hu] at hepoch
    exact absurd hepoch (Nat.succ_ne_self _)
  rcases ha.takes_or_keeps with ⟨b, rest, u, hb, -, hu, rfl⟩ | ⟨hkeep, -⟩
  · obtain ⟨hd, hc, v, rfl⟩ := feed_stores hu (endFeed_fb u ▸ hfb)
    refine ⟨hb, hd, hc, endFeed_cursor _, fun a ha => ?_⟩
    exact (fbByte_congr (endFeed_fb _) hepoch a).trans (fbByte_writeFB_ne v s ha)
  · exact absurd hkeep hfb

/-! ## The operations that write RB, as equations -/

/-- R130: a send hands the unit of its payload to `Emit`. -/
theorem send_eq {n : Nat} (h : n ≤ capRB) (s : State) : execEncSend n s = .next (emit (unit (s.rbRange n)) s) := by
  simp [execEncSend, Nat.not_lt.mpr h, execEncResync, execEncOpen, sendBytes_eq, execEncClose, unit]

/-- A byte written at `n` is the last of RB[0 .. n+1). -/
theorem rbRange_writeRB_succ (n : Nat) (v : Byte) (s : State) : (writeRB n v s).rbRange (n + 1) = s.rbRange n ++ [v] := by
  rw [rbRange_succ, rbByte_writeRB_same, rbRange_congr fun i hi => rbByte_writeRB_ne v s (Nat.ne_of_lt hi)]

/-- RB's bytes do not depend on `acc`. -/
theorem rbRange_acc (a : Byte) (s : State) (n : Nat) : State.rbRange { s with acc := a } n = s.rbRange n := rfl

/-- R177: the error payload goes to RB[0 .. 3) and its unit to `Emit`. -/
theorem sendError_eq (code : ErrorCode) (s : State) :
    execProcSendError code s = .next { s with
      rb := ((s.rb.write 0 errPrefix).write 1 code.toByte).write 2 (crc8 [errPrefix, code.toByte]),
      acc := crc8 [errPrefix, code.toByte], emitting := s.emitting ++ unit (errorPayload code) } := by
  have h2 : (writeRB 1 code.toByte (writeRB 0 errPrefix s)).rbRange 2 = [errPrefix, code.toByte] := by
    rw [rbRange_writeRB_succ, rbRange_writeRB_succ]; rfl
  simp only [execProcSendError, runChecksum_eq, h2]
  rw [send_eq (by decide), rbRange_writeRB_succ, rbRange_acc, h2]
  rfl

/-- R175 within the dispatcher's duties: the checksum goes to RB[response_len], and the response with it to `Emit`. -/
theorem respond_eq {s : State} (h : s.responseLen ≤ respCap) :
    execProcRespond s = .next { s with
      acc := crc8 (s.rbRange s.responseLen), rb := s.rb.write s.responseLen (crc8 (s.rbRange s.responseLen)),
      emitting := s.emitting ++ reqOf (s.rbRange s.responseLen) } := by
  simp only [execProcRespond, if_neg (Nat.not_lt.mpr h), runChecksum_eq]
  rw [send_eq (Nat.succ_le_succ h), rbRange_writeRB_succ, rbRange_acc]
  rfl

/-- R175 outside them. -/
theorem respond_fault {s : State} (h : respCap < s.responseLen) : execProcRespond s = .fault .dispatchContractViolation :=
  if_pos h

/-- The state after PROC.SPLIT and PROC.VERIFY of a frame (R171, R172). -/
def verified (len : Nat) (s : State) : State :=
  { s with frameLen := len, received := s.fbByte (len - 1), acc := crc8 (s.fbRange (len - 1)),
           expected := crc8 (s.fbRange (len - 1)), matched := matchFlag (crc8 (s.fbRange (len - 1))) (s.fbByte (len - 1)) }

/-- R170: split and verify, then the error unit or the call. -/
theorem frame_eq {len : Nat} (hmin : minFrame ≤ len) (hcap : len ≤ capFB) (s : State) :
    execProcFrame len s =
      if (verified len s).matched then
        .next (push .awaitReply (logCall (frameCall (verified len s)) (push .branchOnStatus (verified len s))))
      else execProcSendError .checksumMismatch (verified len s) := by
  have hsplit : execProcSplit len s = .next { s with frameLen := len, received := s.fbByte (len - 1) } :=
    if_pos ⟨Nat.le_trans (by decide) hmin, hcap⟩
  have hverify : execProcVerify { s with frameLen := len, received := s.fbByte (len - 1) } = .next (verified len s) := by
    simp only [execProcVerify, runChecksum_eq, if_pos (Nat.le_trans (Nat.sub_le len 1) hcap)]; rfl
  have hdispatch : execProcDispatch (push .branchOnStatus (verified len s)) =
      .next (push .awaitReply (logCall (frameCall (verified len s)) (push .branchOnStatus (verified len s)))) :=
    if_pos (Nat.le_trans (Nat.sub_le len 1) hcap)
  have hlen : ¬(len < minFrame ∨ len > capFB) := by omega
  simp only [execProcFrame, if_neg hlen, hsplit, andThen_next, hverify, hdispatch, execProcErrChecksum]

/-! ## States that cannot be told apart -/

/-- `s` with other buffers and another accumulator. -/
abbrev State.withBytes (f m : Memory) (a : Byte) (s : State) : State := { s with fb := f, rb := m, acc := a }

/-- `f` holds the bytes FB holds below the cursor. -/
def SameFrame (f : Memory) (s : State) : Prop := ∀ i, i < s.cursor → State.fbByte { s with fb := f } i = s.fbByte i

/-- While the choice on `status` is next, `m` holds the bytes of a successful response that RB holds. -/
def SameResponse (m : Memory) (s : State) : Prop :=
  ∀ k, s.ctl = .branchOnStatus :: k → s.status = .success →
    ∀ i, i < s.responseLen → State.rbByte { s with rb := m } i = s.rbByte i

/-- What a later step can read is the same (R30): all but `acc`, FB from the cursor on, and RB outside a response that has just
come. -/
inductive Alike (s : State) : State → Prop where
  | intro (f m : Memory) (a : Byte) : SameFrame f s → SameResponse m s → Alike s (s.withBytes f m a)

/-- Outcomes of the same kind that cannot be told apart. -/
inductive AlikeOutcomes : Result → Result → Prop where
  | next {s t : State} : Alike s t → AlikeOutcomes (.next s) (.next t)
  | fault (r : Fault) : AlikeOutcomes (.fault r) (.fault r)

theorem Alike.refl (s : State) : Alike s s := .intro s.fb s.rb s.acc (fun _ _ => rfl) fun _ _ _ _ _ => rfl

theorem AlikeOutcomes.seen_eq {o p : Result} (h : AlikeOutcomes o p) : seen p = seen o := by
  cases h with
  | next h => cases h; rfl
  | fault r => rfl

theorem SameFrame.of_cursor_zero {f : Memory} {s : State} (h : s.cursor = 0) : SameFrame f s :=
  fun i hi => absurd (h ▸ hi) (Nat.not_lt_zero i)

theorem SameResponse.of_ctl {m : Memory} {s : State} (h : ∀ k, s.ctl ≠ .branchOnStatus :: k) : SameResponse m s :=
  fun k hk => absurd hk (h k)

theorem SameFrame.fbRange {f m : Memory} {a : Byte} {s : State} {n : Nat} (hf : SameFrame f s) (hn : n ≤ s.cursor) :
    (s.withBytes f m a).fbRange n = s.fbRange n :=
  fbRange_congr fun i hi => hf i (Nat.lt_of_lt_of_le hi hn)

/-- The byte appended is the same, and what was below the cursor stays. -/
theorem SameFrame.append {f : Memory} {s : State} (v : Byte) (hf : SameFrame f s) :
    SameFrame (f.write s.cursor v) (appendByte v s) := by
  intro i hi
  show (writeFB s.cursor v { s with fb := f }).fbByte i = (writeFB s.cursor v s).fbByte i
  rcases Nat.lt_succ_iff_lt_or_eq.mp hi with hlt | rfl
  · rw [fbByte_writeFB_ne v _ (Nat.ne_of_lt hlt), fbByte_writeFB_ne v _ (Nat.ne_of_lt hlt), hf i hlt]
  · rw [fbByte_writeFB_same, fbByte_writeFB_same]

/-- A byte that the writes cover reads the same afterwards, whatever was there; so does one that read the same before. -/
theorem applyWrites_rbByte {ws : List Host.Cell} {s t : State} {i : Nat} (h : i ∈ ws.map Prod.fst ∨ t.rbByte i = s.rbByte i) :
    (applyWrites ws t).rbByte i = (applyWrites ws s).rbByte i := by
  induction ws generalizing s t with
  | nil => exact h.resolve_left (by simp)
  | cons c ws ih =>
    refine ih (s := writeRB c.1 c.2 s) (t := writeRB c.1 c.2 t) ?_
    by_cases hc : i = c.1
    · subst hc; exact .inr (by rw [rbByte_writeRB_same, rbByte_writeRB_same])
    · rw [rbByte_writeRB_ne _ _ hc, rbByte_writeRB_ne _ _ hc]
      simpa [hc] using h

/-! ### The operations -/

section
variable {s : State} {f m : Memory} {a : Byte}

theorem sendError_alike (code : ErrorCode) (hk : ∀ k, s.ctl ≠ .branchOnStatus :: k) (hf : SameFrame f s) :
    AlikeOutcomes (execProcSendError code s) (execProcSendError code (s.withBytes f m a)) := by
  rw [sendError_eq, sendError_eq]
  exact .next (.intro f _ _ hf (.of_ctl hk))

/-- PROC.FRAME reads FB below the cursor only. -/
theorem frame_alike (hk : ∀ k, s.ctl ≠ .branchOnStatus :: k) (hf : SameFrame f s) (hmin : minFrame ≤ s.cursor)
    (hcap : s.cursor ≤ capFB) :
    AlikeOutcomes (execProcFrame s.cursor s) (execProcFrame s.cursor (s.withBytes f m a)) := by
  have hlt : s.cursor - 1 < s.cursor := Nat.sub_lt (Nat.lt_of_lt_of_le (by decide) hmin) (by decide)
  have hbyte : (s.withBytes f m a).fbByte (s.cursor - 1) = s.fbByte (s.cursor - 1) := hf _ hlt
  have hv : verified s.cursor (s.withBytes f m a) =
      (verified s.cursor s).withBytes f m (crc8 (s.fbRange (s.cursor - 1))) := by
    simp only [verified, hf.fbRange (Nat.le_of_lt hlt), hbyte]
  have hcall : frameCall (verified s.cursor (s.withBytes f m a)) = frameCall (verified s.cursor s) :=
    congrArg (Call.mk · (s.cursor - 1) respCap) (hf.fbRange (m := m) (a := a) (Nat.le_of_lt hlt))
  rw [frame_eq hmin hcap, frame_eq hmin hcap, hcall, hv]
  split
  · exact .next (.intro f m _ hf (.of_ctl fun k hc => by cases hc))
  · exact sendError_alike (s := verified s.cursor s) .checksumMismatch hk hf

/-- What a byte does depends on FB below the cursor only. -/
theorem feed_alike (b : Byte) (hk : s.ctl = []) (hcap : s.cursor ≤ capFB) (hf : SameFrame f s) :
    AlikeOutcomes (feed b s) (feed b (s.withBytes f m a)) := by
  have hno : ∀ k, s.ctl ≠ .branchOnStatus :: k := fun k h => by rw [hk] at h; cases h
  obtain ⟨g, hg, hfeed⟩ := feed_effect s.dstate s.cursor b
  rw [hfeed s rfl rfl, hfeed (s.withBytes f m a) rfl rfl]
  cases hg with
  | ignores _ => exact .next (.intro f m a hf (.of_ctl hno))
  | drops d _ => exact .next (.intro f m a (.of_cursor_zero rfl) (.of_ctl hno))
  | escapes _ _ => exact .next (.intro f m a hf (.of_ctl hno))
  | stores v _ _ => exact .next (.intro (f.write s.cursor v) m a (hf.append v) (.of_ctl hno))
  | delivers _ _ hmin => exact frame_alike (s := push .closeFrame s) (fun k hc => by cases hc) hf hmin hcap

/-- The choice on `status` reads RB below the response's length only. -/
theorem statusOp_alike (hk : ∀ k, s.ctl ≠ .branchOnStatus :: k) (hf : SameFrame f s)
    (hr : s.status = .success → ∀ i, i < s.responseLen → (s.withBytes f m a).rbByte i = s.rbByte i) :
    AlikeOutcomes (exec (statusOp s.status) s) (exec (statusOp s.status) (s.withBytes f m a)) := by
  cases hs : s.status with
  | failure => exact sendError_alike .dispatchFailure hk hf
  | success =>
    show AlikeOutcomes (execProcRespond s) (execProcRespond (s.withBytes f m a))
    by_cases hl : s.responseLen ≤ respCap
    · have hrange : (s.withBytes f m a).rbRange s.responseLen = s.rbRange s.responseLen := rbRange_congr (hr hs)
      rw [respond_eq hl, respond_eq (s := s.withBytes f m a) hl, hrange]
      exact .next (.intro f _ _ hf (.of_ctl hk))
    · rw [respond_fault (Nat.lt_of_not_le hl), respond_fault (s := s.withBytes f m a) (Nat.lt_of_not_le hl)]
      exact .fault _

/-- The reply's writes make RB the same as far as a successful response goes. -/
theorem acceptReply_alike {r : Reply} (hcover : r.status = .success → ∀ i, i < r.responseLen → i ∈ r.writes.map Prod.fst)
    (hf : SameFrame f s) : Alike (acceptReply r s) (acceptReply r (s.withBytes f m a)) := by
  have hrb : ∀ i, r.status = .success → i < r.responseLen →
      (applyWrites r.writes (s.withBytes f m a)).rbByte i = (applyWrites r.writes s).rbByte i :=
    fun i hs hi => applyWrites_rbByte (.inl (hcover hs i hi))
  rw [applyWrites_eq _ s, applyWrites_eq _ (s.withBytes f m a)] at hrb
  rw [acceptReply_eq, acceptReply_eq]
  exact .intro f _ a hf fun k _ hs i hi => hrb i hs hi

theorem receiveReply_alike {k : List Pending} (hk : ∀ k, s.ctl ≠ .branchOnStatus :: k) (hcover : RepliesCover s)
    (hf : SameFrame f s) : AlikeOutcomes (receiveReply k s) (receiveReply k (s.withBytes f m a)) := by
  rcases hr : s.replies with _ | ⟨_ | r, more⟩ <;> simp only [receiveReply, hr]
  · exact .next (.intro f m a hf (.of_ctl hk))
  · exact .next (.intro f m a hf (.of_ctl hk))
  · split
    · exact .next (acceptReply_alike (s := { s with replies := more, ctl := k }) (hcover r (by simp [hr])) hf)
    · exact .fault _

/-- A reset makes the two states the same (R31). -/
theorem resetTaking_alike : Alike (resetTaking s) (resetTaking (s.withBytes f m a)) := by
  have heq : resetTaking (s.withBytes f m a) = resetTaking s := by
    simp only [resetTaking]
    rcases s.busy with _ | _
    · rcases s.input with _ | ⟨x, rest⟩ <;> rfl
    · rfl
  exact heq ▸ .refl _

end

/-! ### The moves of the control path -/

theorem endFeed_alike {s t : State} (h : Alike s t) : Alike (endFeed s) (endFeed t) := by
  cases h with
  | intro f m a hf hr =>
    have hcomm : endFeed (s.withBytes f m a) = (endFeed s).withBytes f m a := by unfold endFeed; split <;> rfl
    rw [hcomm]
    rcases endFeed_cases s with e | ⟨e, -⟩ <;> rw [e] <;> exact .intro f m a hf hr

theorem finish_alike {o p : Result} (h : AlikeOutcomes o p) : AlikeOutcomes (finish o) (finish p) := by
  cases h with
  | next h => exact .next (endFeed_alike h)
  | fault r => exact .fault r

theorem offerByte_alike {s t : State} (b : Byte) (bs : List Byte) (h : Alike s t) :
    Alike (offerByte b bs s) (offerByte b bs t) := by
  cases h with
  | intro f m a hf hr =>
    unfold offerByte
    rcases s.sink with _ | ⟨_ | _, more⟩ <;> simp only
    · split <;> exact .intro f m a hf hr
    · exact .intro f m a hf hr
    · exact .intro f m a hf hr

theorem resume_alike {s t : State} (hi : CoreInv s) (hcover : RepliesCover s) (h : Alike s t) :
    AlikeOutcomes (resume s) (resume t) := by
  cases h with
  | intro f m a hf hr =>
    rcases he : s.emitting with _ | ⟨b, bs⟩
    · rcases hk : s.ctl with _ | ⟨_ | _ | _, k⟩ <;> simp only [resume, he, hk]
      · exact finish_alike (.next (.intro f m a hf hr))
      · exact finish_alike (receiveReply_alike (fun j hj => by rw [hk] at hj; cases hj) hcover hf)
      · obtain rfl := ctlShape_branchOnStatus (hk ▸ hi.shape)
        exact finish_alike (statusOp_alike (s := { s with ctl := [.closeFrame], emitting := [] }) (m := m) (a := a)
          (fun j hj => by cases hj) hf (hr _ hk))
      · obtain rfl := ctlShape_closeFrame (hk ▸ hi.shape)
        exact finish_alike (.next (.intro f m a (.of_cursor_zero rfl) (.of_ctl fun j hj => by cases hj)))
    · simp only [resume, he]
      exact finish_alike (.next (offerByte_alike b bs (.intro f m a hf hr)))

theorem poll_alike {s t : State} (hi : CoreInv s) (hb : s.busy = false) (h : Alike s t) : AlikeOutcomes (poll s) (poll t) := by
  cases h with
  | intro f m a hf hr =>
    rcases hin : s.input with _ | ⟨_ | b, rest⟩ <;> simp only [poll, hin]
    · exact .next (.intro f m a hf hr)
    · exact .next (.intro f m a hf hr)
    · exact finish_alike (feed_alike (s := takeInput rest s) b (hi.quiet hb).1 hi.cursor_le hf)

theorem advance_alike {s t : State} (hi : CoreInv s) (hcover : RepliesCover s) (h : Alike s t) :
    AlikeOutcomes (advance s) (advance t) := by
  have hbusy : t.busy = s.busy := by cases h; rfl
  unfold advance
  rw [hbusy]
  split
  · exact resume_alike hi hcover h
  next hb => exact poll_alike hi (by simpa using hb) h

theorem step_alike {s t : State} (hi : CoreInv s) (hcover : RepliesCover s) (h : Alike s t) :
    AlikeOutcomes (step s) (step t) := by
  cases h with
  | intro f m a hf hr =>
    rcases hres : s.resets with _ | ⟨_ | _ | _, more⟩ <;> simp only [step, cycle, hres]
    · exact advance_alike hi hcover (.intro f m a hf hr)
    · exact advance_alike (hi.withAnswers s.input more) hcover (.intro f m a hf hr)
    · exact .next (.refl _)
    · exact .next (resetTaking_alike (s := { s with resets := more }))

/-! ### Runs -/

theorem Advances.replies_subset {s t : State} (h : Advances s t) : t.replies ⊆ s.replies := by
  cases h with
  | nothingOffered _ _ => exact List.Subset.refl _
  | pollNone _ _ _ => exact List.Subset.refl _
  | takesByte b rest u _ _ hu => simp [(exec_env hu).replies]
  | emits b bs _ _ => rcases offerByte_cases b bs s with ⟨sk, e⟩ | ⟨sk, e⟩ <;> simp [e]
  | nothingLeft _ _ _ => simp
  | noReplyEver _ _ _ _ _ => simp
  | noReplyYet k more _ _ _ hr => simp [hr]
  | reply k r more _ _ _ hr _ => simp [acceptReply_eq, hr]
  | branches k u _ _ _ hu => simp [(exec_env hu).replies]
  | closes k _ _ _ => simp [closeFrame]

theorem step_replies_subset {s t : State} (h : step s = .next t) : t.replies ⊆ s.replies := by
  rcases step_inv h with ⟨u, more, rfl, hu, -⟩ | ⟨more, ha⟩
  · rw [hu]; exact List.Subset.refl _
  · exact ha.replies_subset

/-- No number of steps tells two alike states apart. -/
theorem runSteps_alike (n : Nat) {s t : State} (hi : CoreInv s) (hcover : RepliesCover s) (h : Alike s t) :
    AlikeOutcomes (runSteps n s) (runSteps n t) := by
  induction n generalizing s t with
  | zero => exact .next h
  | succ n ih =>
    rw [runSteps_succ, runSteps_succ]
    have hstep := step_alike hi hcover h
    rcases hs : step s with s' | r | r <;> rw [hs] at hstep <;> generalize step t = p at hstep <;> cases hstep
    next t' h' => exact ih (hi.of_step hs) (fun r hr => hcover r (step_replies_subset hs hr)) h'
    next => exact .fault r

/-- Settles O60: the relation `Alike` holds of two such states, and every step keeps it. -/
theorem unusedBufferBytesAreUnobservable : Obligations.UnusedBufferBytesAreUnobservable := by
  intro s t n hi _ hb hcover ht hf
  have hk := (hi.quiet hb).1
  rw [ht] at hf ⊢
  exact (runSteps_alike n hi hcover (.intro _ _ _ hf (.of_ctl fun k hc => by rw [hk] at hc; cases hc))).seen_eq

end Sys2Proof.Machine

/-! The memory family: which operations write RB and where (R42, R175, R177), the faults of log 8, and how the streams of
R46 and the waits of R50 to R52 move. -/

namespace Sys2Proof.Machine

open Config

/-! ## What the storing operations of PROC leave in the buffers -/

/-- Reading a buffer after a write: the byte written at its index, the old byte at every other. -/
theorem Memory.read?_write (m : Memory) (a b : Nat) (v : Byte) :
    (m.write b v).read? a = if a = b then some v else m.read? a := by
  by_cases h : a = b
  · subst h; rw [Memory.read?_write_same, if_pos rfl]
  · rw [Memory.read?_write_ne m v h, if_neg h]

/-- R177, read byte by byte: the error payload stands in RB[0 .. 3), and nothing else of the buffers changed. -/
theorem sendError_frame {code : ErrorCode} {s t : State} (h : execProcSendError code s = .next t) :
    t.rbByte 0 = errPrefix ∧ t.rbByte 1 = code.toByte ∧ t.rbByte 2 = crc8 [errPrefix, code.toByte] ∧
    (∀ a, 3 ≤ a → t.rbByte a = s.rbByte a) ∧ (∀ a, t.fbByte a = s.fbByte a) ∧
    t = { s with rb := t.rb, acc := t.acc, emitting := t.emitting } := by
  rw [sendError_eq] at h
  cases h
  refine ⟨?_, ?_, ?_, fun a ha => ?_, fun _ => rfl, rfl⟩
  · simp [State.rbByte, Memory.read?_write]
  · simp [State.rbByte, Memory.read?_write]
  · simp [State.rbByte]
  · have h0 : a ≠ 0 := by omega
    have h1 : a ≠ 1 := by omega
    have h2 : a ≠ 2 := by omega
    simp [State.rbByte, Memory.read?_write, h0, h1, h2]

/-- R175, read byte by byte: the checksum stands in RB[response_len], and nothing else of the buffers changed. -/
theorem respond_frame {s t : State} (h : execProcRespond s = .next t) :
    t.rbByte s.responseLen = crc8 (s.rbRange s.responseLen) ∧
    (∀ a, a ≠ s.responseLen → t.rbByte a = s.rbByte a) ∧ (∀ a, t.fbByte a = s.fbByte a) ∧
    t = { s with rb := t.rb, acc := t.acc, emitting := t.emitting } := by
  rw [respond_eq (respond_inv h).1] at h
  cases h
  exact ⟨rbByte_writeRB_same _ _ s, fun a ha => rbByte_writeRB_ne _ s ha, fun _ => rfl, rfl⟩

/-- Settles O37: PROC.ERR_CHECKSUM and PROC.ERR_DISPATCH are PROC.SEND_ERROR of their code. -/
theorem processorStoresOnlyTheStagedBytes : Obligations.ProcessorStoresOnlyTheStagedBytes := by
  refine ⟨fun i code s t hi h => ?_, fun s t h => respond_frame h⟩
  rcases hi with ⟨rfl, rfl⟩ | ⟨rfl, rfl⟩
  · exact sendError_frame (code := .checksumMismatch) h
  · exact sendError_frame (code := .dispatchFailure) h

/-! ## How the streams move -/

/-- The streams between two states a step apart: the output gains at most the oldest byte handed to `Emit`, the calls gain at
most one, and a core that is not busy takes at most one answer of the source, a busy one none. -/
structure StreamsForward (s t : State) : Prop where
  out : t.out = s.out ∨ ∃ b, s.emitting = b :: t.emitting ∧ t.out = s.out ++ [b]
  calls : t.calls = s.calls ∨ ∃ c, t.calls = s.calls ++ [c]
  input : t.input = s.input ∨ (s.busy = false ∧ ∃ x, s.input = x :: t.input)

/-- The end of a Feed touches no stream. -/
theorem StreamsForward.endFeed {s t : State} (h : StreamsForward s t) : StreamsForward s (endFeed t) := by
  rw [endFeed_eq]
  exact ⟨h.out, h.calls, h.input⟩

/-- Only an attempt at the sink extends the output, only a poll takes an answer, and only an operation calls. -/
theorem Advances.streams {s t : State} (h : Advances s t) : StreamsForward s t := by
  cases h with
  | nothingOffered _ _ => exact ⟨.inl rfl, .inl rfl, .inl rfl⟩
  | pollNone rest hb hi => exact ⟨.inl rfl, .inl rfl, .inr ⟨hb, none, hi⟩⟩
  | takesByte b rest u hb hi hu =>
    have k := exec_env hu
    exact .endFeed ⟨.inl k.out, k.calls, .inr ⟨hb, some b, k.input ▸ hi⟩⟩
  | emits b bs _ he =>
    rcases offerByte_cases b bs s with ⟨sk, e⟩ | ⟨sk, e⟩ <;> rw [e]
    · exact .endFeed ⟨.inr ⟨b, he, rfl⟩, .inl rfl, .inl rfl⟩
    · exact .endFeed ⟨.inl rfl, .inl rfl, .inl rfl⟩
  | nothingLeft _ _ _ => exact .endFeed ⟨.inl rfl, .inl rfl, .inl rfl⟩
  | noReplyEver _ _ _ _ _ => exact .endFeed ⟨.inl rfl, .inl rfl, .inl rfl⟩
  | noReplyYet _ _ _ _ _ _ => exact .endFeed ⟨.inl rfl, .inl rfl, .inl rfl⟩
  | reply k r more _ _ _ _ _ => rw [acceptReply_eq]; exact .endFeed ⟨.inl rfl, .inl rfl, .inl rfl⟩
  | branches _ u _ _ _ hu =>
    have k := exec_env hu
    exact .endFeed ⟨.inl k.out, k.calls, .inl k.input⟩
  | closes _ _ _ _ => exact .endFeed ⟨.inl rfl, .inl rfl, .inl rfl⟩

/-- A reset keeps the output and the calls, and takes an answer only of a core that is not busy (R230, D21). -/
theorem step_streams {s t : State} (h : step s = .next t) : StreamsForward s t := by
  rcases step_inv h with ⟨u, more, rfl, hu, hin⟩ | ⟨more, ha⟩
  · exact ⟨.inl (by rw [hu]; rfl), .inl (by rw [hu]; rfl), hin⟩
  · have k := ha.streams
    exact ⟨k.out, k.calls, k.input⟩

/-- Settles O41. -/
theorem busyCoreTakesNoInput : Obligations.BusyCoreTakesNoInput := by
  intro s t hb h
  rcases (step_streams h).input with hin | ⟨hidle, -⟩
  · exact hin
  · exact absurd (hb.symm.trans hidle) (by decide)

/-- Settles O42. -/
theorem streamsMoveForwardOnly : Obligations.StreamsMoveForwardOnly := fun _ _ h =>
  let k := step_streams h
  ⟨k.out, k.calls, k.input.imp_right And.right⟩

/-! ## Who changes RB -/

/-- An input byte that changes RB is the boundary marker that delivers a frame. -/
theorem feed_rb {s u : State} {b : Byte} {rest : List (Option Byte)} (hu : feed b (takeInput rest s) = .next u)
    (hrb : u.rb ≠ s.rb) : s.dstate = .receiving ∧ b = endByte ∧ minFrame ≤ s.cursor := by
  obtain ⟨f, hf, hfeed⟩ := takesByte_effect b rest s
  rw [hfeed] at hu
  cases hf with
  | ignores _ => cases hu; exact absurd rfl hrb
  | drops d' _ => cases hu; exact absurd rfl hrb
  | escapes _ _ => cases hu; exact absurd rfl hrb
  | stores v _ _ => cases hu; exact absurd rfl hrb
  | delivers hd hb hmin => exact ⟨hd, hb, hmin⟩

/-- A move that changes RB is one of a Feed in progress, or takes a byte that does. -/
theorem Advances.busy_or_feeds {s t : State} (h : Advances s t) (hrb : t.rb ≠ s.rb) :
    s.busy = true ∨ ∃ b rest u, s.input = some b :: rest ∧ feed b (takeInput rest s) = .next u ∧ u.rb ≠ s.rb := by
  cases h with
  | nothingOffered _ _ => exact absurd rfl hrb
  | pollNone _ _ _ => exact absurd rfl hrb
  | takesByte b rest u _ hi hu => rw [endFeed_eq] at hrb; exact .inr ⟨b, rest, u, hi, hu, hrb⟩
  | _ => exact .inl ‹_›

/-- Settles O49: a step without a reset that changes RB is a move of a busy core, or takes the byte that delivers a frame. -/
theorem responseBufferChangesOnlyWhileProcessing : Obligations.ResponseBufferChangesOnlyWhileProcessing := by
  intro s t hs hepoch hrb
  rcases step_inv hs with ⟨u, more, rfl, hu, -⟩ | ⟨more, ha⟩
  · rw [hu] at hepoch
    exact absurd hepoch (Nat.succ_ne_self _)
  rcases ha.busy_or_feeds hrb with hb | ⟨b, rest, u, hi, hu, hrb⟩
  · exact .inl hb
  · obtain ⟨hd, rfl, hmin⟩ := feed_rb hu hrb
    exact .inr ⟨hd, hmin, rest, hi⟩

/-! ## The model's own fault, and the waits on the source and the sink -/

/-- Settles O30: each of the four tests its index before it reads or writes. -/
theorem indexesOutsideFBFault : Obligations.IndexesOutsideFBFault := by
  refine ⟨fun b s hc => if_neg (Nat.not_lt.mpr hc), fun len s hl => if_neg fun hlen => ?_,
    fun s hl => if_neg fun hlen => ?_, fun s hl => if_neg fun hlen => ?_⟩
  · obtain ⟨hmin, hmax⟩ : 1 ≤ len ∧ len ≤ 256 := hlen
    omega
  · have hmax : s.frameLen - 1 ≤ 256 := hlen
    omega
  · have hmax : s.frameLen - 1 ≤ 256 := hlen
    omega

/-- Settles O40. -/
theorem pollWithoutAByteChangesNothing : Obligations.PollWithoutAByteChangesNothing := by
  intro s hr hb
  rw [step_of_no_reset hr, advance_idle hb]
  exact ⟨fun rest hi => by simp only [poll, hi], fun hi => by simp only [poll, hi]⟩

/-- With a byte waiting and more of the Feed to come, a step is one attempt at the sink. -/
theorem step_offers {s : State} {b : Byte} {bs : List Byte} (hr : s.resets = []) (hb : s.busy = true) (hk : s.ctl ≠ [])
    (he : s.emitting = b :: bs) : step s = .next (offerByte b bs s) := by
  have hk' : (offerByte b bs s).ctl ≠ [] := by rcases offerByte_cases b bs s with ⟨sk, e⟩ | ⟨sk, e⟩ <;> rw [e] <;> exact hk
  rw [step_of_no_reset hr, advance_busy hb]
  simp only [resume, he, finish_next, endFeed_busy (.inl hk')]

/-- Settles O43. -/
theorem emitWaitsForTheSink : Obligations.EmitWaitsForTheSink := by
  intro s b bs hr hb hk he
  rw [step_offers hr hb hk he]
  refine ⟨fun more hs => ?_, fun more hs => ?_, fun hs ho => ?_⟩
  · simp only [offerByte, hs, sinkTakes]
  · simp only [offerByte, hs]
  · simp only [offerByte, hs, if_pos ho, sinkTakes]

end Sys2Proof.Machine

/-! The encoding family: the decoder against the encoder (R82), against the rows of the opcode table (R70), and the length of
a unit (R74, R244). -/

namespace Sys2Proof.Machine

open Config

/-! ## From an operation to its selection and back -/

/-- Settles O9, constructor by constructor. -/
theorem decodeOfEncodeIsTheOperation : Obligations.DecodeOfEncodeIsTheOperation := fun i =>
  match i with
  | .idleEnd => Laws.RoundTrip.idleEnd
  | .idleOther b => Laws.RoundTrip.idleOther b
  | .rxEnd => Laws.RoundTrip.rxEnd
  | .rxEsc => Laws.RoundTrip.rxEsc
  | .rxData b => Laws.RoundTrip.rxData b
  | .rxOverflow b => Laws.RoundTrip.rxOverflow b
  | .escEscEnd => Laws.RoundTrip.escEscEnd
  | .escEscEsc => Laws.RoundTrip.escEscEsc
  | .escOther b => Laws.RoundTrip.escOther b
  | .decDeliver len => Laws.RoundTrip.decDeliver len
  | .encSend n => Laws.RoundTrip.encSend n
  | .encResync => Laws.RoundTrip.encResync
  | .encOpen => Laws.RoundTrip.encOpen
  | .encByteEnd => Laws.RoundTrip.encByteEnd
  | .encByteEsc => Laws.RoundTrip.encByteEsc
  | .encByteLit c => Laws.RoundTrip.encByteLit c
  | .encClose => Laws.RoundTrip.encClose
  | .crcClear => Laws.RoundTrip.crcClear
  | .crcStep b => Laws.RoundTrip.crcStep b
  | .procFrame len => Laws.RoundTrip.procFrame len
  | .procSplit len => Laws.RoundTrip.procSplit len
  | .procVerify => Laws.RoundTrip.procVerify
  | .procErrChecksum => Laws.RoundTrip.procErrChecksum
  | .procDispatch => Laws.RoundTrip.procDispatch
  | .procRespond => Laws.RoundTrip.procRespond
  | .procErrDispatch => Laws.RoundTrip.procErrDispatch
  | .procSendError code => Laws.RoundTrip.procSendError code

/-! ## From a selection to its operation and back -/

/-- An input byte selects a well-formed operation, whose own selection has the same state and byte, and a cursor that selects
the same operation. -/
theorem decodeInput_inv (d : DState) (c : Nat) (b : Byte) :
    (decodeInput d c b).wf = true ∧
    ∃ c', encode (decodeInput d c b) = .inputByte d c' b ∧ decodeInput d c b = decodeInput d c' b := by
  cases d with
  | idle =>
    by_cases hb : b = endByte
    · subst hb; exact ⟨rfl, 0, rfl, rfl⟩
    · have hop (c : Nat) : decodeInput .idle c b = .idleOther b := if_neg hb
      exact ⟨by simp [hop, Instr.wf, hb], 0, by simp [hop, encode], by simp [hop]⟩
  | receiving =>
    by_cases hb : b = endByte
    · subst hb; exact ⟨rfl, 0, rfl, rfl⟩
    by_cases he : b = escByte
    · subst he; exact ⟨rfl, 0, rfl, rfl⟩
    have hop (c : Nat) : decodeInput .receiving c b = if c < capFB then .rxData b else .rxOverflow b := by
      simp only [decodeInput, if_neg hb, if_neg he]
    by_cases hc : c < capFB
    · exact ⟨by simp [hop, hc, Instr.wf, hb, he], 0, by simp [hop, hc, encode], by simp [hop, hc]⟩
    · exact ⟨by simp [hop, hc, Instr.wf, hb, he], capFB, by simp [hop, hc, encode], by simp [hop, hc]⟩
  | escaped =>
    by_cases hn : b = escEndByte
    · subst hn; exact ⟨rfl, 0, rfl, rfl⟩
    by_cases he : b = escEscByte
    · subst he; exact ⟨rfl, 0, rfl, rfl⟩
    have hop (c : Nat) : decodeInput .escaped c b = .escOther b := by simp only [decodeInput, if_neg hn, if_neg he]
    exact ⟨by simp [hop, Instr.wf, hn, he], 0, by simp [hop, encode], by simp [hop]⟩

/-- A payload byte selects a well-formed operation, whose own selection is that byte. -/
theorem decodePayload_inv (c : Byte) : (decodePayload c).wf = true ∧ encode (decodePayload c) = .payloadByte c := by
  by_cases hb : c = endByte
  · subst hb; exact ⟨rfl, rfl⟩
  by_cases he : c = escByte
  · subst he; exact ⟨rfl, rfl⟩
  have hop : decodePayload c = .encByteLit c := by simp only [decodePayload, if_neg hb, if_neg he]
  exact ⟨by simp [hop, Instr.wf, hb, he], by rw [hop]; rfl⟩

/-- An event that selects an operation selects a well-formed one, whose own selection is that event. -/
theorem decodeEvent_inv {e : Event} {i : Instr} (h : decodeEvent e = .ok i) : i.wf = true ∧ encode i = .event e := by
  cases e with
  | closedAbove1 len | delivery len | frameFirst len =>
    by_cases hl : frameLenOk len = true <;> simp only [decodeEvent, hl] at h <;> cases h
    exact ⟨hl, rfl⟩
  | sendCall n =>
    by_cases hn : n ≤ capRB <;> simp only [decodeEvent, hn] at h <;> cases h
    exact ⟨decide_eq_true hn, rfl⟩
  | sendFirst | sendSecond | sendLast | checksumStart | checksumByte _ | frameSecond => cases h; exact ⟨rfl, rfl⟩
  | matchIs m => cases m <;> cases h <;> exact ⟨rfl, rfl⟩
  | statusIs st => cases st <;> cases h <;> exact ⟨rfl, rfl⟩
  | errorWith c =>
    by_cases hk : c = errChecksum
    · subst hk; cases h; exact ⟨rfl, rfl⟩
    by_cases hd : c = errDispatch
    · subst hd; cases h; exact ⟨rfl, rfl⟩
    simp only [decodeEvent, if_neg hk, if_neg hd] at h
    cases h

/-- Settles O10, one inversion lemma for each kind of selection. -/
theorem encodeOfDecodeIsTheSelection : Obligations.EncodeOfDecodeIsTheSelection := by
  intro sel i h
  cases sel with
  | inputByte d c b =>
    cases h
    obtain ⟨hwf, c', henc, hsame⟩ := decodeInput_inv d c b
    exact ⟨hwf, by rw [henc]; exact ⟨rfl, rfl, congrArg Except.ok hsame⟩⟩
  | payloadByte c =>
    cases h
    obtain ⟨hwf, henc⟩ := decodePayload_inv c
    exact ⟨hwf, by rw [henc]⟩
  | event e =>
    obtain ⟨hwf, henc⟩ := decodeEvent_inv h
    exact ⟨hwf, by rw [henc]⟩

/-! ## The rows of the opcode table -/

/-- A row that fixes all its bits is selected by its one byte in its state. -/
theorem selects_fixed (m : String) (p : Byte) (st d : DState) (c : Nat) (b : Byte) :
    (InputRow.mk m p 0xFF#8 st [] none).selects d c b = (b == p && st == d) := by
  have hmask : b &&& 0xFF#8 = b := BitVec.and_allOnes
  simp [InputRow.selects, hmask]

/-- A row that fixes no bit is selected by every byte it does not exclude, in its state and with its room (R82). -/
theorem selects_open (m : String) (st d : DState) (ex : List Byte) (room : Option Bool) {c : Nat} (hc : c ≤ 256) (b : Byte) :
    (InputRow.mk m 0x00#8 0x00#8 st ex room).selects d c b =
      (st == d && !ex.contains b && room.all fun r => r == decide (c < capFB)) := by
  have hmask : b &&& 0x00#8 = 0x00#8 := BitVec.and_zero
  rcases room with _ | _ | _
  · simp [InputRow.selects, hmask]
  · obtain hlt | rfl := hc.lt_or_eq
    · simp [InputRow.selects, hmask, hlt, hlt.ne]
    · simp [InputRow.selects, hmask]
  · simp [InputRow.selects, hmask]

/-- In `Idle` the marker selects the first row, and every other byte the second. -/
theorem inputRows_filter_idle {c : Nat} (hc : c ≤ 256) (b : Byte) :
    inputRows.filter (fun r => r.selects .idle c b) = if b = endByte then [inputRows[0]] else [inputRows[1]] := by
  by_cases hb : b = endByte <;> simp [inputRows, selects_fixed, selects_open, hc, hb]

/-- In `Receiving` the two markers select their rows, and every other byte the row of its room. -/
theorem inputRows_filter_receiving {c : Nat} (hc : c ≤ 256) (b : Byte) :
    inputRows.filter (fun r => r.selects .receiving c b) =
      if b = endByte then [inputRows[2]] else if b = escByte then [inputRows[3]]
      else if c < capFB then [inputRows[4]] else [inputRows[5]] := by
  by_cases hb : b = endByte
  · simp [inputRows, selects_fixed, selects_open, hc, hb]
  by_cases he : b = escByte
  · simp [inputRows, selects_fixed, selects_open, hc, he]
  by_cases hr : c < capFB <;> simp [inputRows, selects_fixed, selects_open, hc, hb, he, hr]

/-- In `Escaped` the two codes select their rows, and every other byte the last row. -/
theorem inputRows_filter_escaped {c : Nat} (hc : c ≤ 256) (b : Byte) :
    inputRows.filter (fun r => r.selects .escaped c b) =
      if b = escEndByte then [inputRows[6]] else if b = escEscByte then [inputRows[7]] else [inputRows[8]] := by
  by_cases hn : b = escEndByte
  · simp [inputRows, selects_fixed, selects_open, hc, hn]
  by_cases he : b = escEscByte <;> simp [inputRows, selects_fixed, selects_open, hc, hn, he]

/-- Settles O7: in each state the table's rows split as the decoder's cases do. -/
theorem exactlyOneTableRowIsSelected : Obligations.ExactlyOneTableRowIsSelected := by
  intro d c b hc
  cases d with
  | idle =>
    rw [inputRows_filter_idle hc]
    unfold decodeInput
    split_ifs <;> exact ⟨_, rfl, rfl⟩
  | receiving =>
    rw [inputRows_filter_receiving hc]
    unfold decodeInput
    split_ifs <;> exact ⟨_, rfl, rfl⟩
  | escaped =>
    rw [inputRows_filter_escaped hc]
    unfold decodeInput
    split_ifs <;> exact ⟨_, rfl, rfl⟩

/-! ## The length of a unit -/

/-- R72: the escape form of a byte is a pair for the two markers, the byte itself otherwise. -/
theorem escapeOf_length (c : Byte) : (escapeOf c).length = if c == 0xC0#8 || c == 0xDB#8 then 2 else 1 := by
  by_cases hb : c = endByte
  · subst hb; rfl
  by_cases he : c = escByte
  · subst he; rfl
  simp [escapeOf, hb, he]

/-- Escaping adds one byte for each byte that needs it. -/
theorem esc_length (p : List Byte) :
    (esc p).length = p.length + (p.filter fun c => c == 0xC0#8 || c == 0xDB#8).length := by
  induction p with
  | nil => rfl
  | cons c p ih =>
    rw [esc_cons, List.length_append, escapeOf_length, ih, List.filter_cons, List.length_cons]
    split_ifs
    · rw [List.length_cons]; omega
    · omega

/-- Settles O23: the four bytes around the escaped payload, and at most one escape for each payload byte. -/
theorem unitLengthCountsTheEscapes : Obligations.UnitLengthCountsTheEscapes := by
  intro p
  have hlen : (unit p).length = 4 + p.length + (p.filter fun c => c == 0xC0#8 || c == 0xDB#8).length := by
    simp only [unit, List.length_append, List.length_cons, List.length_nil, esc_length]
    omega
  have hle : (p.filter fun c => c == 0xC0#8 || c == 0xDB#8).length ≤ p.length := List.length_filter_le _ p
  exact ⟨hlen, fun _ _ => by omega⟩

/-! ## Fixed words of the table -/

/-- Settles O8, by evaluating the decoder on the thirteen words. -/
theorem tableWordsDecode : Obligations.TableWordsDecode := by
  unfold Obligations.TableWordsDecode
  decide

end Sys2Proof.Machine

/-! The decoder family: the operations of 40_decoder.md one by one (R100 to R110), the silence of a byte that delivers no frame
(R112), and the runs over bytes that de-escape (R111), a whole unit (R113) and a request with its response (R175). -/

namespace Sys2Proof.Machine

open Config

/-! ## The operations of the state table -/

/-- Settles O11. -/
theorem boundaryInIdleOpensAFrame : Obligations.BoundaryInIdleOpensAFrame := fun _ => rfl

/-- Settles O12. -/
theorem otherBytesInIdleAreIgnored : Obligations.OtherBytesInIdleAreIgnored := fun _ _ => rfl

/-- Settles O14. -/
theorem escapeInReceivingWaitsForACode : Obligations.EscapeInReceivingWaitsForACode := fun _ => rfl

/-- Settles O16. -/
theorem overflowAndInvalidEscapeDropTheFrame : Obligations.OverflowAndInvalidEscapeDropTheFrame :=
  ⟨fun _ _ => rfl, fun _ _ => rfl⟩

/-- R105 with room. -/
theorem rxData_append {s : State} (b : Byte) (h : s.cursor < capFB) : exec (.rxData b) s = .next (appendByte b s) := if_pos h

/-- R107 and R108 with room. -/
theorem resolveEscape_append {s : State} (v : Byte) (h : s.cursor < capFB) :
    resolveEscape v s = setDState .receiving (appendByte v s) := congrArg _ (if_pos h)

/-- R107 and R108 at full capacity. -/
theorem resolveEscape_full {s : State} (v : Byte) (h : capFB ≤ s.cursor) :
    resolveEscape v s = setDState .receiving (resetBuffer s) := congrArg _ (if_neg (Nat.not_lt.mpr h))

/-- R103 without delivery. -/
theorem rxEnd_drop {s : State} (h : s.cursor < minFrame) : exec .rxEnd s = .next (closeFrame s) := if_neg (Nat.not_le.mpr h)

/-- R103 with delivery. -/
theorem rxEnd_deliver {s : State} (h : minFrame ≤ s.cursor) :
    exec .rxEnd s = execProcFrame s.cursor (push .closeFrame s) := if_pos h

/-- Settles O15. -/
theorem dataByteIsAppendedAtTheCursor : Obligations.DataByteIsAppendedAtTheCursor := fun b _ h => rxData_append b h

/-- Settles O17. -/
theorem escapeCodesResolveToLiteralBytes : Obligations.EscapeCodesResolveToLiteralBytes :=
  ⟨fun _ h => congrArg _ (resolveEscape_append endByte h), fun _ h => congrArg _ (resolveEscape_full endByte h),
   fun _ h => congrArg _ (resolveEscape_append escByte h), fun _ h => congrArg _ (resolveEscape_full escByte h)⟩

/-! ## What the operations leave in the buffers -/

/-- An appended byte stands at the cursor, and no other byte of FB changed, whatever `dstate` becomes. -/
theorem fbByte_append (d : DState) (v : Byte) (s : State) :
    (setDState d (appendByte v s)).fbByte s.cursor = v ∧
    ∀ a, a ≠ s.cursor → (setDState d (appendByte v s)).fbByte a = s.fbByte a :=
  ⟨fbByte_writeFB_same s.cursor v s, fun _ ha => fbByte_writeFB_ne v s ha⟩

/-- Settles O18: each of the three is the append at the cursor. -/
theorem appendChangesOneFrameByte : Obligations.AppendChangesOneFrameByte := by
  intro i v s t hi hc h
  obtain ⟨d, hd, rfl⟩ : ∃ d, d = (if i = .rxData v then s.dstate else .receiving) ∧ t = setDState d (appendByte v s) := by
    rcases hi with rfl | ⟨rfl, rfl⟩ | ⟨rfl, rfl⟩
    · rw [rxData_append v hc] at h
      cases h
      exact ⟨s.dstate, (if_pos rfl).symm, rfl⟩
    · cases h
      exact ⟨.receiving, rfl, resolveEscape_append _ hc⟩
    · cases h
      exact ⟨.receiving, rfl, resolveEscape_append _ hc⟩
  obtain ⟨hsame, hother⟩ := fbByte_append d v s
  exact ⟨hsame, hother, fun _ => rfl, rfl, hd, rfl⟩

/-- Settles O19: each of them writes `dstate` and `cursor` at most, and `cursor` only to 0. -/
theorem bufferResetsKeepEveryByte : Obligations.BufferResetsKeepEveryByte := by
  intro i s t hi h
  suffices hw : ∃ d c, t = { s with dstate := d, cursor := c } ∧ (c = 0 ∨ c = s.cursor) by
    obtain ⟨d, c, rfl, hc⟩ := hw
    exact ⟨fun _ => rfl, fun _ => rfl, hc, rfl⟩
  rcases hi with rfl | ⟨b, rfl⟩ | ⟨rfl, hc⟩ | rfl | ⟨b, rfl⟩ | ⟨b, rfl⟩ | ⟨rfl | rfl, hc⟩
  · cases h; exact ⟨.receiving, 0, rfl, .inl rfl⟩
  · cases h; exact ⟨s.dstate, s.cursor, rfl, .inr rfl⟩
  · rw [rxEnd_drop (Nat.lt_succ_of_le hc)] at h; cases h; exact ⟨.idle, 0, rfl, .inl rfl⟩
  · cases h; exact ⟨.escaped, s.cursor, rfl, .inr rfl⟩
  · cases h; exact ⟨.idle, 0, rfl, .inl rfl⟩
  · cases h; exact ⟨.receiving, 0, rfl, .inl rfl⟩
  · cases h; exact ⟨.receiving, 0, resolveEscape_full _ hc, .inl rfl⟩
  · cases h; exact ⟨.receiving, 0, resolveEscape_full _ hc, .inl rfl⟩

/-! ## Delivery -/

/-- PROC.FRAME of a frame's length answers a next state, whatever the verdict. -/
theorem frame_answers {len : Nat} (hmin : 2 ≤ len) (hcap : len ≤ 256) (s : State) : ∃ t, execProcFrame len s = .next t := by
  rw [frame_eq hmin hcap, sendError_eq]
  split <;> exact ⟨_, rfl⟩

/-- PROC.FRAME leaves the cursor alone. -/
theorem frame_keeps_cursor {len : Nat} {s t : State} (h : execProcFrame len s = .next t) : t.cursor = s.cursor := by
  obtain ⟨-, -, ⟨_, _, _, _, _, rfl, -⟩ | ⟨_, _, _, rfl⟩⟩ := frame_inv h <;> rfl

/-- Settles O20: PROC.FRAME answers, and keeps the decoder's state. -/
theorem deliveryRunsTheFrameProcessor : Obligations.DeliveryRunsTheFrameProcessor := by
  refine fun len s => ⟨rfl, fun hmin hcap => ?_⟩
  obtain ⟨t, ht⟩ := frame_answers hmin hcap s
  obtain ⟨hfb, hd⟩ := frame_keeps_decoder ht
  exact ⟨t, ht, hfb, frame_keeps_cursor ht, hd⟩

/-- The end of RX.END, where it waited for PROC: the step that ends the Feed. -/
theorem step_closeFrame {s : State} (hr : s.resets = []) (hb : s.busy = true) (he : s.emitting = [])
    (hk : s.ctl = [.closeFrame]) : step s = .next { s with ctl := [], cursor := 0, dstate := .idle, busy := false } := by
  rw [step_of_no_reset hr, advance_busy hb]
  simp only [resume, he, hk, finish_next]
  rw [endFeed_done rfl rfl]
  rfl

/-- Settles O13: the cases of RX.END at once, and the end of the one that waits. -/
theorem boundaryInReceivingClosesTheFrame : Obligations.BoundaryInReceivingClosesTheFrame := by
  refine ⟨fun s hc => rxEnd_drop (Nat.lt_succ_of_le hc), fun s hc => rxEnd_deliver hc, fun s hc hcap => ?_,
    fun s hr hb he hk => step_closeFrame hr hb he hk⟩
  rw [rxEnd_deliver hc]
  exact frame_answers hc hcap _

/-! ## The step that takes a byte -/

/-- A core between two Feeds, to which no reset comes. -/
structure Ready (s : State) : Prop where
  resets : s.resets = []
  idle : s.busy = false
  ctl : s.ctl = []
  emitting : s.emitting = []

theorem CoreInv.ready {s : State} (h : CoreInv s) (hr : s.resets = []) (hb : s.busy = false) : Ready s :=
  ⟨hr, hb, (h.quiet hb).1, (h.quiet hb).2⟩

/-- R100: the byte is taken and fed. -/
theorem step_takes {s : State} {b : Byte} {rest : List (Option Byte)} (hr : s.resets = []) (hb : s.busy = false)
    (hi : s.input = some b :: rest) : step s = finish (feed b (takeInput rest s)) := by
  rw [step_of_no_reset hr, advance_idle hb]
  simp only [poll, hi]

/-- Settles O5: `step_takes`, with R100's case distinction written out. -/
theorem stepRunsTheSelectedOperation : Obligations.StepRunsTheSelectedOperation := by
  refine fun s b rest hr hb hi => ⟨?_, fun t => ?_⟩
  · rw [step_takes hr hb hi]
    refine congrArg (fun i => finish (exec i (takeInput rest s))) (?_ : decodeInput s.dstate s.cursor b = _)
    cases s.dstate <;> rfl
  · simp only [finish_next, endFeed, Bool.and_eq_true, List.isEmpty_iff]

/-- Settles O6: the decoder reads the operation that `feed` runs. -/
theorem stepIsExecOfTheDecodedByte : Obligations.StepIsExecOfTheDecodedByte := by
  intro s b rest i hr hb hi h
  cases h
  exact ⟨(decodeInput_inv s.dstate s.cursor b).1, step_takes hr hb hi⟩

section
variable {s : State} {b : Byte} {rest : List (Option Byte)}

/-- A byte whose operation writes the decoder's registers and FB only is done in its one step. -/
theorem Ready.step_eq (h : Ready s) (hi : s.input = some b :: rest) {d : DState} {c : Nat} {m : Memory}
    (hf : feed b (takeInput rest s) = .next { takeInput rest s with dstate := d, cursor := c, fb := m }) :
    step s = .next { s with input := rest, dstate := d, cursor := c, fb := m } := by
  rw [step_takes h.resets h.idle hi, hf, finish_next, endFeed_done]
  · simp only [takeInput, ← h.idle]
  · exact h.ctl
  · exact h.emitting

/-- A byte that delivers no frame writes the decoder's registers and FB only. -/
theorem ByteEffect.undelivered {d : DState} {c : Nat} {f : State → Result} (hf : ByteEffect d c b f)
    (hno : ¬(d = .receiving ∧ b = endByte ∧ minFrame ≤ c)) (t : State) :
    ∃ d' c' m, f t = .next { t with dstate := d', cursor := c', fb := m } := by
  cases hf with
  | ignores _ => exact ⟨t.dstate, t.cursor, t.fb, rfl⟩
  | drops d' _ => exact ⟨d', 0, t.fb, rfl⟩
  | escapes _ _ => exact ⟨.escaped, t.cursor, t.fb, rfl⟩
  | stores v _ _ => exact ⟨.receiving, t.cursor + 1, t.fb.write t.cursor v, rfl⟩
  | delivers hd hb hmin => exact absurd ⟨hd, hb, hmin⟩ hno

/-- R112: so the step that takes it leaves everything else as it was. -/
theorem Ready.step_undelivered (h : Ready s) (hi : s.input = some b :: rest)
    (hno : ¬(s.dstate = .receiving ∧ b = endByte ∧ minFrame ≤ s.cursor)) :
    ∃ d c m, step s = .next { s with input := rest, dstate := d, cursor := c, fb := m } := by
  obtain ⟨f, hf, hfeed⟩ := takesByte_effect b rest s
  obtain ⟨d, c, m, hu⟩ := hf.undelivered hno (takeInput rest s)
  exact ⟨d, c, m, h.step_eq hi (hfeed.trans hu)⟩

end

/-- Settles O50: the byte's one step writes the decoder's registers and FB only. -/
theorem undeliveredBytesAreSilent : Obligations.UndeliveredBytesAreSilent := by
  intro s b rest hinv hr hb hi hno
  have h := hinv.ready hr hb
  obtain ⟨d, c, m, hs⟩ := h.step_undelivered hi hno
  exact ⟨_, hs, hb, h.emitting, rfl, rfl, rfl, rfl, rfl⟩

/-! ## What a byte does in each state -/

section
variable {s : State} {b : Byte} {rest : List (Option Byte)}

/-- `Ready` does not read the source's coming answers, the decoder's registers and FB. -/
theorem Ready.moved (h : Ready s) (i : List (Option Byte)) (d : DState) (c : Nat) (m : Memory) :
    Ready { s with input := i, dstate := d, cursor := c, fb := m } :=
  ⟨h.resets, h.idle, h.ctl, h.emitting⟩

/-- `Ready.step_eq`, by the operation the byte selects. -/
theorem Ready.step_exec (h : Ready s) (hi : s.input = some b :: rest) {op : Instr} {d : DState} {c : Nat} {m : Memory}
    (hop : decodeInput s.dstate s.cursor b = op)
    (hx : exec op (takeInput rest s) = .next { takeInput rest s with dstate := d, cursor := c, fb := m }) :
    step s = .next { s with input := rest, dstate := d, cursor := c, fb := m } :=
  h.step_eq hi ((congrArg (exec · (takeInput rest s)) hop).trans hx)

/-- Any byte but the boundary marker in `Idle`. -/
theorem Ready.step_ignored (h : Ready s) (hd : s.dstate = .idle) (hb : b ≠ endByte) (hi : s.input = some b :: rest) :
    step s = .next { s with input := rest } :=
  h.step_exec (op := .idleOther b) (d := s.dstate) (c := s.cursor) (m := s.fb) hi (by rw [hd]; exact if_neg hb) rfl

/-- The boundary marker in `Idle`. -/
theorem Ready.step_opened (h : Ready s) (hd : s.dstate = .idle) (hi : s.input = some endByte :: rest) :
    step s = .next { s with input := rest, dstate := .receiving, cursor := 0 } :=
  h.step_exec (op := .idleEnd) (d := .receiving) (c := 0) (m := s.fb) hi (by rw [hd]; rfl) rfl

/-- The escape marker in `Receiving`. -/
theorem Ready.step_escaped (h : Ready s) (hd : s.dstate = .receiving) (hi : s.input = some escByte :: rest) :
    step s = .next { s with input := rest, dstate := .escaped } :=
  h.step_exec (op := .rxEsc) (d := .escaped) (c := s.cursor) (m := s.fb) hi (by rw [hd]; rfl) rfl

/-- The boundary marker in `Receiving`, with less than a frame in FB. -/
theorem Ready.step_dropped (h : Ready s) (hd : s.dstate = .receiving) (hc : s.cursor < minFrame)
    (hi : s.input = some endByte :: rest) : step s = .next { s with input := rest, dstate := .idle, cursor := 0 } :=
  h.step_exec (op := .rxEnd) (d := .idle) (c := 0) (m := s.fb) hi (by rw [hd]; rfl) (rxEnd_drop hc)

/-- A literal byte in `Receiving`, with room. -/
theorem Ready.step_stored (h : Ready s) (hd : s.dstate = .receiving) (hb : b ≠ endByte) (he : b ≠ escByte)
    (hc : s.cursor < capFB) (hi : s.input = some b :: rest) : step s = .next (appendByte b { s with input := rest }) := by
  have hop : decodeInput s.dstate s.cursor b = .rxData b := by
    simp only [hd, decodeInput, if_neg hb, if_neg he, if_pos hc]
  exact h.step_exec (d := s.dstate) (c := s.cursor + 1) (m := s.fb.write s.cursor b) hi hop (rxData_append b hc)

/-- An escape code in `Escaped`, with room: the byte the code stands for is appended. -/
theorem Ready.step_resolved (h : Ready s) (hd : s.dstate = .escaped) (hc : s.cursor < capFB) {code v : Byte} {op : Instr}
    (hop : ∀ c, decodeInput .escaped c code = op) (hx : ∀ t, exec op t = .next (resolveEscape v t))
    (hi : s.input = some code :: rest) :
    step s = .next (setDState .receiving (appendByte v { s with input := rest })) :=
  h.step_exec (d := .receiving) (c := s.cursor + 1) (m := s.fb.write s.cursor v) hi (hd ▸ hop _)
    ((hx _).trans (congrArg _ (resolveEscape_append v hc)))

/-- An escape marker and a code in `Receiving`, with room. -/
theorem Ready.run_pair (h : Ready s) (hd : s.dstate = .receiving) (hc : s.cursor < capFB) {code v : Byte} {op : Instr}
    (hop : ∀ c, decodeInput .escaped c code = op) (hx : ∀ t, exec op t = .next (resolveEscape v t))
    (hi : s.input = some escByte :: some code :: rest) : runSteps 2 s = .next (appendByte v { s with input := rest }) := by
  rw [runSteps_succ, h.step_escaped hd hi, andThen_next, runSteps_one,
    (h.moved _ _ s.cursor s.fb).step_resolved rfl hc hop hx rfl, ← hd]
  rfl

/-- The escape form of a payload byte in `Receiving`, with room: the byte is appended (R105, R107, R108). -/
theorem Ready.run_escapeOf (h : Ready s) (hd : s.dstate = .receiving) (hc : s.cursor < capFB) (c : Byte)
    (hi : s.input = (escapeOf c).map some ++ rest) :
    runSteps (escapeOf c).length s = .next (appendByte c { s with input := rest }) := by
  by_cases hb : c = endByte
  · subst hb
    exact h.run_pair (op := .escEscEnd) hd hc (fun _ => rfl) (fun _ => rfl) hi
  by_cases he : c = escByte
  · subst he
    exact h.run_pair (op := .escEscEsc) hd hc (fun _ => rfl) (fun _ => rfl) hi
  have hesc : escapeOf c = [c] := by simp only [escapeOf, if_neg hb, if_neg he]
  rw [hesc] at hi ⊢
  exact (runSteps_one s).trans (h.step_stored hd hb he hc hi)

end

/-! ## Runs of bytes -/

/-- Settles O51: byte by byte. -/
theorem bytesBeforeABoundaryAreLost : Obligations.BytesBeforeABoundaryAreLost := by
  intro bs s rest hr hb hk he hd hmem hi
  induction bs generalizing s with
  | nil => rw [← show s.input = rest from hi]; rfl
  | cons b bs ih =>
    have hne : b ≠ endByte := (List.ne_of_not_mem_cons hmem).symm
    rw [List.length_cons, runSteps_succ, Ready.step_ignored ⟨hr, hb, hk, he⟩ hd hne hi]
    exact ih { s with input := bs.map some ++ rest } hr hb hk he hd (List.not_mem_of_not_mem_cons hmem) rfl

/-- `q` written from index `i` on. -/
def Memory.writeFrom (m : Memory) (i : Nat) : List Byte → Memory
  | [] => m
  | v :: q => Memory.writeFrom (m.write i v) (i + 1) q

/-- The bytes of `q` appended at the cursor, one after the other. -/
def appendBytes (q : List Byte) (s : State) : State :=
  { s with fb := s.fb.writeFrom s.cursor q, cursor := s.cursor + q.length }

theorem appendBytes_nil (s : State) : appendBytes [] s = s := rfl

theorem appendBytes_cons (v : Byte) (q : List Byte) (s : State) : appendBytes (v :: q) s = appendBytes q (appendByte v s) := by
  simp only [appendBytes, appendByte, writeFB, Memory.writeFrom, List.length_cons, Nat.add_assoc, Nat.add_comm 1]

theorem fbRange_appendByte (v : Byte) (s : State) : (appendByte v s).fbRange (s.cursor + 1) = s.fbRange s.cursor ++ [v] := by
  obtain ⟨hsame, hother⟩ := fbByte_append s.dstate v s
  rw [fbRange_succ]
  exact congrArg₂ (· ++ [·]) (fbRange_congr fun i hi => hother i (Nat.ne_of_lt hi)) hsame

/-- After the append FB holds what it held below the cursor, and then the bytes appended. -/
theorem fbRange_appendBytes (q : List Byte) (s : State) :
    (appendBytes q s).fbRange (appendBytes q s).cursor = s.fbRange s.cursor ++ q := by
  induction q generalizing s with
  | nil => rw [appendBytes_nil, List.append_nil]
  | cons v q ih =>
    rw [appendBytes_cons, ih, List.append_cons]
    exact congrArg (· ++ q) (fbRange_appendByte v s)

/-- An escaped payload in `Receiving`, with room, is appended (R111). -/
theorem Ready.run_esc {s : State} {rest : List (Option Byte)} (h : Ready s) (hd : s.dstate = .receiving) (p : List Byte)
    (hc : s.cursor + p.length ≤ capFB) (hi : s.input = (esc p).map some ++ rest) :
    runSteps (esc p).length s = .next (appendBytes p { s with input := rest }) := by
  induction p generalizing s with
  | nil => rw [← show s.input = rest from hi]; rfl
  | cons c p ih =>
    rw [List.length_cons] at hc
    rw [esc_cons, List.map_append, List.append_assoc] at hi
    rw [esc_cons, List.length_append, appendBytes_cons]
    refine runSteps_trans (h.run_escapeOf hd (by omega) c hi) ?_
    exact ih (h.moved _ s.dstate _ _) hd (show s.cursor + 1 + p.length ≤ capFB by omega) rfl

/-- De-escaping reads back an escaped payload and nothing else (R73). -/
theorem eq_esc_of_unescape {bs q : List Byte} (h : unescape bs = some q) : bs = esc q := by
  fun_induction unescape bs generalizing q with
  | case1 => cases h; rfl
  | case2 b hb => cases h
  | case3 b hb =>
    cases h
    obtain ⟨hn, he⟩ := not_or.mp hb
    simp [escapeOf, hn, he]
  | case4 => cases h
  | case5 rest _ ih =>
    obtain ⟨q', hq, rfl⟩ := Option.map_eq_some_iff.mp h
    rw [ih hq]; rfl
  | case6 rest _ _ ih =>
    obtain ⟨q', hq, rfl⟩ := Option.map_eq_some_iff.mp h
    rw [ih hq]; rfl
  | case7 => cases h
  | case8 b c rest hn he ih =>
    obtain ⟨q', hq, rfl⟩ := Option.map_eq_some_iff.mp h
    rw [ih hq, esc_cons]
    simp [escapeOf, hn, he]

/-- Settles O52: bytes that de-escape to `q` are the escaped `q`, which is appended. -/
theorem frameBufferHoldsTheDeEscapedBytes : Obligations.FrameBufferHoldsTheDeEscapedBytes := by
  intro bs q s rest hr hb hk he hd hq hc hi
  have h : Ready s := ⟨hr, hb, hk, he⟩
  obtain rfl := eq_esc_of_unescape hq
  exact ⟨_, h.run_esc hd q hc hi, hd, rfl, fbRange_appendBytes q _, hb, rfl, rfl, rfl, rfl,
    fun rest' hrest => (h.moved _ s.dstate _ _).step_escaped hd hrest⟩

/-! ## A unit fed to a core in Idle -/

/-- The core after a unit's prefix and payload, before its closing marker: the payload is in FB from index 0. -/
def framed (p : List Byte) (rest : List (Option Byte)) (s : State) : State :=
  appendBytes p { s with input := some endByte :: rest, dstate := .receiving, cursor := 0 }

theorem framed_cursor (p : List Byte) (rest : List (Option Byte)) (s : State) : (framed p rest s).cursor = p.length :=
  Nat.zero_add _

theorem framed_fbRange (p : List Byte) (rest : List (Option Byte)) (s : State) : (framed p rest s).fbRange p.length = p := by
  have h := fbRange_appendBytes p { s with input := some endByte :: rest, dstate := .receiving, cursor := 0 }
  rwa [show (appendBytes p _).cursor = p.length from framed_cursor p rest s] at h

theorem Ready.framed_ready {s : State} (h : Ready s) (p : List Byte) (rest : List (Option Byte)) : Ready (framed p rest s) :=
  h.moved _ _ _ _

/-- A core in `Idle` ignores the resync prefix, opens a frame, and takes the payload (R113). -/
theorem Ready.run_unit {s : State} {rest : List (Option Byte)} (h : Ready s) (hd : s.dstate = .idle) (p : List Byte)
    (hc : p.length ≤ capFB) (hi : s.input = (unit p).map some ++ rest) :
    runSteps ((unit p).length - 1) s = .next (framed p rest s) := by
  have hlen : (unit p).length - 1 = 1 + (1 + (1 + (esc p).length)) := by
    simp only [unit, List.length_append, List.length_cons, List.length_nil]; omega
  have hin : s.input = some escByte :: some clearByte :: some endByte :: ((esc p).map some ++ some endByte :: rest) := by
    rw [hi]; simp [unit]
  rw [hlen]
  refine runSteps_trans ((runSteps_one s).trans (h.step_ignored hd (by decide) hin)) ?_
  refine runSteps_trans ((runSteps_one _).trans ((h.moved _ s.dstate s.cursor s.fb).step_ignored hd (by decide) rfl)) ?_
  refine runSteps_trans ((runSteps_one _).trans ((h.moved _ s.dstate s.cursor s.fb).step_opened hd rfl)) ?_
  exact (h.moved _ .receiving 0 s.fb).run_esc rfl p ((Nat.zero_add _).trans_le hc) rfl

/-- The boundary marker in `Receiving` delivers the frame in FB (R103). -/
theorem Ready.step_delivers {s : State} {n : Nat} {rest : List (Option Byte)} (h : Ready s) (hd : s.dstate = .receiving)
    (hc : s.cursor = n) (hmin : minFrame ≤ n) (hi : s.input = some endByte :: rest) :
    step s = finish (exec (.decDeliver n) { s with input := rest, busy := true, ctl := [.closeFrame] }) := by
  subst hc
  have hop : decodeInput s.dstate s.cursor endByte = .rxEnd := by rw [hd]; rfl
  have hpush : push .closeFrame (takeInput rest s) = { s with input := rest, busy := true, ctl := [.closeFrame] } := by
    simp only [push, takeInput, h.ctl]
  rw [step_takes h.resets h.idle hi, ← hpush]
  exact congrArg finish ((congrArg (exec · (takeInput rest s)) hop).trans (rxEnd_deliver hmin))

/-- Settles O53: the closing marker of the unit finds the whole payload in FB, and delivers it or drops it by its length. -/
theorem unitFedToAnIdleCoreDeliversItsPayload : Obligations.UnitFedToAnIdleCoreDeliversItsPayload := by
  intro p s rest hinv hr hb hd hi
  have h := hinv.ready hr hb
  have hcur := framed_cursor p rest s
  refine ⟨fun hmin hcap => ?_, fun hshort => ?_⟩
  · exact ⟨_, h.run_unit hd p hcap hi, hb, rfl, hcur, framed_fbRange p rest s, rfl, rfl, rfl, rfl,
      (h.framed_ready p rest).step_delivers rfl hcur hmin rfl⟩
  · have hlen : (unit p).length = (unit p).length - 1 + 1 := by simp [unit]
    have hcap : p.length ≤ capFB := hshort.trans (by decide)
    have hdrop := (h.framed_ready p rest).step_dropped rfl (by rw [hcur]; exact Nat.lt_succ_of_le hshort) rfl
    rw [hlen]
    exact ⟨_, runSteps_trans (h.run_unit hd p hcap hi) ((runSteps_one _).trans hdrop), hb, rfl, rfl, rfl, rfl, rfl, rfl⟩

/-! ## Runs of a busy core, to the end of its Feed -/

theorem Reaches.refl (s : State) : Reaches s s := ⟨0, rfl⟩

theorem Reaches.trans {s t u : State} (h : Reaches s t) (k : Reaches t u) : Reaches s u := by
  obtain ⟨m, hm⟩ := h
  obtain ⟨n, hn⟩ := k
  exact ⟨m + n, runSteps_trans hm hn⟩

theorem Reaches.of_step {s t : State} (h : step s = .next t) : Reaches s t := ⟨1, (runSteps_one s).trans h⟩

theorem Reaches.step_then {s t u : State} (h : step s = .next t) (k : Reaches t u) : Reaches s u := (Reaches.of_step h).trans k

/-- A willing sink takes the oldest waiting byte after some attempts. -/
theorem reaches_taken {s : State} {b : Byte} {bs : List Byte} (hw : Willing s) (hb : s.busy = true) (hk : s.ctl ≠ [])
    (he : s.emitting = b :: bs) : ∃ sk, Reaches s { s with sink := sk, emitting := bs, out := s.out ++ [b] } := by
  obtain ⟨hr, ho⟩ := hw
  induction hs : s.sink generalizing s with
  | nil =>
    refine ⟨s.sink, .of_step ((step_offers hr hb hk he).trans ?_)⟩
    simp only [offerByte, hs, if_pos ho, sinkTakes]
  | cons takes more ih =>
    have hstep := step_offers hr hb hk he
    cases takes with
    | true => exact ⟨more, .of_step (hstep.trans (by simp only [offerByte, hs, sinkTakes]))⟩
    | false =>
      obtain ⟨sk, h⟩ := ih (s := { s with sink := more }) hb hk he hr ho rfl
      exact ⟨sk, .step_then (hstep.trans (by simp only [offerByte, hs])) h⟩

/-- So all the bytes handed to `Emit` leave, in order (R52). -/
theorem reaches_drained {s : State} (hw : Willing s) (hb : s.busy = true) (hk : s.ctl ≠ []) :
    ∃ sk, Reaches s { s with sink := sk, emitting := [], out := s.out ++ s.emitting } := by
  induction he : s.emitting generalizing s with
  | nil => exact ⟨s.sink, by rw [List.append_nil, ← he]; exact .refl s⟩
  | cons b bs ih =>
    obtain ⟨sk, h⟩ := reaches_taken hw hb hk he
    obtain ⟨sk', h'⟩ := ih (s := { s with sink := sk, emitting := bs, out := s.out ++ [b] }) hw hb hk rfl
    exact ⟨sk', h.trans (by simpa using h')⟩

/-- The unit leaves, and the core is ready in `Idle` (R103, R178). -/
theorem Reaches.then_closed {s t : State} (h : Reaches s t) (hw : Willing t) (hb : t.busy = true) (hk : t.ctl = [.closeFrame]) :
    ∃ sk, Reaches s { t with
      sink := sk, emitting := [], out := t.out ++ t.emitting, ctl := [], cursor := 0, dstate := .idle, busy := false } := by
  obtain ⟨sk, hsent⟩ := reaches_drained hw hb (by rw [hk]; exact List.cons_ne_nil _ _)
  exact ⟨sk, (h.trans hsent).trans (.of_step (step_closeFrame hw.1 hb rfl hk))⟩

/-- A move after which more of the Feed is to come. -/
theorem finish_waits {o : Result} {s : State} (h : o = .next s) (hk : s.ctl ≠ []) : finish o = .next s := by
  rw [h, finish_next, endFeed_busy (.inl hk)]

/-- While the dispatcher call is outstanding, a move is one look at whether it has returned. -/
theorem resume_awaits {s : State} {k : List Pending} (he : s.emitting = []) (hk : s.ctl = .awaitReply :: k) :
    resume s = finish (receiveReply k s) := by
  cases s; cases he; cases hk; rfl

/-- After its return a move is the operation that `status` selects. -/
theorem resume_branches {s : State} {k : List Pending} (he : s.emitting = []) (hk : s.ctl = .branchOnStatus :: k) :
    resume s = finish (exec (statusOp s.status) { s with ctl := k }) := by
  cases s; cases he; cases hk; rfl

/-- A dutiful reply is taken once it comes (R174). -/
theorem reaches_replied {s : State} {p : Pending} {k : List Pending} {n : Nat} {r : Reply} {more : List (Option Reply)}
    (hr : s.resets = []) (hb : s.busy = true) (he : s.emitting = []) (hk : s.ctl = .awaitReply :: p :: k)
    (hn : NextReply s n r more) (hw : r.writesInContract = true) :
    Reaches s (acceptReply r { s with replies := more, ctl := p :: k }) := by
  unfold NextReply at hn
  induction n generalizing s with
  | zero =>
    have hgo : receiveReply (p :: k) s = .next (acceptReply r { s with replies := more, ctl := p :: k }) := by
      simp [receiveReply, hn, hw]
    refine .of_step ?_
    rw [step_of_no_reset hr, advance_busy hb, resume_awaits he hk]
    exact finish_waits hgo (by rw [acceptReply_eq]; exact List.cons_ne_nil _ _)
  | succ n ih =>
    have hgo : receiveReply (p :: k) s = .next { s with replies := List.replicate n none ++ some r :: more } := by
      simp [receiveReply, hn, List.replicate_succ]
    refine .step_then ?_ (ih (s := { s with replies := List.replicate n none ++ some r :: more }) hr hb he hk rfl)
    rw [step_of_no_reset hr, advance_busy hb, resume_awaits he hk]
    exact finish_waits hgo (by rw [hk]; exact List.cons_ne_nil _ _)

/-- After a successful return the response goes out as one unit (R170, R175). -/
theorem step_responds {s : State} {p : Pending} {k : List Pending} (hr : s.resets = []) (hb : s.busy = true)
    (he : s.emitting = []) (hk : s.ctl = .branchOnStatus :: p :: k) (hs : s.status = .success) (hl : s.responseLen ≤ respCap) :
    step s = .next { s with
      ctl := p :: k, acc := crc8 (s.rbRange s.responseLen), rb := s.rb.write s.responseLen (crc8 (s.rbRange s.responseLen)),
      emitting := s.emitting ++ reqOf (s.rbRange s.responseLen) } := by
  rw [step_of_no_reset hr, advance_busy hb, resume_branches he hk]
  have hop : statusOp s.status = .procRespond := by rw [hs]; rfl
  exact finish_waits ((congrArg (exec · _) hop).trans (respond_eq hl)) (List.cons_ne_nil _ _)

/-- With a dispatcher that has succeeded: the response leaves as one unit, and the core is ready in `Idle`. -/
theorem Reaches.then_responded {s t : State} (h : Reaches s t) (hw : Willing t) (hb : t.busy = true) (he : t.emitting = [])
    (hk : t.ctl = [.branchOnStatus, .closeFrame]) (hs : t.status = .success) (hl : t.responseLen ≤ respCap) :
    ∃ u, Reaches s u ∧ u.busy = false ∧ u.dstate = .idle ∧ u.cursor = 0 ∧ u.input = t.input ∧
      u.out = t.out ++ reqOf (t.rbRange t.responseLen) ∧ u.calls = t.calls ∧ u.replies = t.replies := by
  have hsent := h.trans (.of_step (step_responds hw.1 hb he hk hs hl))
  obtain ⟨sk, hclosed⟩ := hsent.then_closed hw hb rfl
  exact ⟨_, hclosed, rfl, rfl, rfl, rfl, by simp [he], rfl, rfl⟩

/-- A core that has called the dispatcher with the frame FB[0 .. n) and waits. -/
def awaiting (n : Nat) (rest : List (Option Byte)) (s : State) : State :=
  { verified n s with
    input := rest, busy := true, calls := s.calls ++ [⟨s.fbRange (n - 1), n - 1, respCap⟩],
    ctl := [.awaitReply, .branchOnStatus, .closeFrame] }

/-- The boundary marker after a frame with the right checksum calls the dispatcher (R170, R174). -/
theorem Ready.step_dispatches {s : State} {n : Nat} {rest : List (Option Byte)} (h : Ready s) (hd : s.dstate = .receiving)
    (hc : s.cursor = n) (hmin : minFrame ≤ n) (hcap : n ≤ capFB) (hi : s.input = some endByte :: rest)
    (hcrc : crc8 (s.fbRange (n - 1)) = s.fbByte (n - 1)) : step s = .next (awaiting n rest s) := by
  have hmatch : (verified n s).matched = true := by simp [verified, matchFlag, hcrc]
  rw [h.step_delivers hd hc hmin hi]
  exact finish_waits ((frame_eq hmin hcap _).trans (if_pos hmatch)) (List.cons_ne_nil _ _)

/-- What the dispatcher's writes leave in RB depends on what RB held. -/
theorem rbRange_applyWrites (ws : List Host.Cell) {s t : State} (hrb : t.rb = s.rb) (hepoch : t.epoch = s.epoch) (n : Nat) :
    (applyWrites ws t).rbRange n = (applyWrites ws s).rbRange n := by
  refine rbRange_congr fun i _ => rbByte_congr ?_ ?_ i
  · rw [applyWrites_rb, applyWrites_rb, hrb]
  · rw [applyWrites_eq ws t, applyWrites_eq ws s]; exact hepoch

/-- The boundary marker after a frame with the right checksum, with a dispatcher that will succeed: one call, and the response
as one unit (R175, R178). -/
theorem Ready.reaches_response {s : State} {n k : Nat} {rest : List (Option Byte)} {r : Reply} {more : List (Option Reply)}
    (h : Ready s) (ho : s.sinkOpen = true) (hd : s.dstate = .receiving) (hc : s.cursor = n) (hmin : minFrame ≤ n)
    (hcap : n ≤ capFB) (hi : s.input = some endByte :: rest) (hcrc : crc8 (s.fbRange (n - 1)) = s.fbByte (n - 1))
    (hn : NextReply s k r more) (hw : r.writesInContract = true) (hs : r.status = .success) (hl : r.responseLen ≤ respCap) :
    ∃ t, Reaches s t ∧ t.busy = false ∧ t.dstate = .idle ∧ t.cursor = 0 ∧ t.input = rest ∧
      t.out = s.out ++ reqOf ((applyWrites r.writes s).rbRange r.responseLen) ∧
      t.calls = s.calls ++ [⟨s.fbRange (n - 1), n - 1, respCap⟩] ∧ t.replies = more := by
  have hcalled : Reaches s (awaiting n rest s) := .of_step (h.step_dispatches hd hc hmin hcap hi hcrc)
  have hreplied := hcalled.trans (reaches_replied h.resets rfl h.emitting rfl hn hw)
  have hresponse := rbRange_applyWrites r.writes (s := s)
    (t := { awaiting n rest s with replies := more, ctl := [.branchOnStatus, .closeFrame] }) rfl rfl r.responseLen
  rw [acceptReply_eq] at hreplied
  rw [applyWrites_eq] at hresponse
  obtain ⟨t, ht, hbusy, hidle, hcur, hin, hout, hcalls, hrep⟩ :=
    hreplied.then_responded ⟨h.resets, ho⟩ rfl h.emitting rfl hs hl
  exact ⟨t, ht, hbusy, hidle, hcur, hin, hresponse ▸ hout, hcalls, hrep⟩

/-- Settles O58: the unit is taken and delivers `a` and its checksum, which matches. -/
theorem requestUnitIsAnsweredEndToEnd : Obligations.RequestUnitIsAnsweredEndToEnd := by
  intro a s rest k r more hinv hw hb hd hmin hcap hi hn hwr hs hl
  have h := hinv.ready hw.1 hb
  have hlen : (a ++ [crc8 a]).length = a.length + 1 := List.length_append
  have hroom : (a ++ [crc8 a]).length ≤ capFB := by rw [hlen]; exact Nat.succ_le_succ hcap
  have htaken : Reaches s (framed (a ++ [crc8 a]) rest s) := ⟨_, h.run_unit hd _ hroom hi⟩
  have hfb := framed_fbRange (a ++ [crc8 a]) rest s
  rw [hlen, fbRange_succ] at hfb
  obtain ⟨hdata, hsum⟩ := List.append_inj' hfb rfl
  have hcrc : crc8 ((framed (a ++ [crc8 a]) rest s).fbRange a.length) = (framed (a ++ [crc8 a]) rest s).fbByte a.length := by
    rw [hdata]; exact (List.singleton_inj.mp hsum).symm
  obtain ⟨t, ht, hbusy, hidle, hcur, hin, hout, hcalls, hrep⟩ := (h.framed_ready (a ++ [crc8 a]) rest).reaches_response
    (n := a.length + 1) hw.2 rfl ((framed_cursor _ rest s).trans hlen) (Nat.succ_le_succ hmin) (Nat.succ_le_succ hcap) rfl
    hcrc hn hwr hs hl
  rw [Nat.add_sub_cancel, hdata] at hcalls
  rw [rbRange_applyWrites r.writes (s := s) (t := framed _ rest s) rfl rfl] at hout
  exact ⟨t, htaken.trans ht, hbusy, hidle, hcur, hin, hout, hcalls, hrep⟩

end Sys2Proof.Machine

/-! The encoder family: the bytes a send hands to `Emit` (R130 to R136), the escaping of a payload and its reading back (R137),
and what the operations that store nothing leave alone (R138). -/

namespace Sys2Proof.Machine

open Config

/-! ## The bytes of a send -/

/-- Settles O21: each step is one `emit`. -/
theorem encoderStepsEmitTheirBytes : Obligations.EncoderStepsEmitTheirBytes := fun _ _ =>
  ⟨rfl, rfl, rfl, rfl, rfl, rfl⟩

/-- R130 and D13: a send beyond the buffer faults before it emits. -/
theorem send_fault {n : Nat} (h : capRB < n) (s : State) : execEncSend n s = .fault .sendLengthExceeded := if_pos h

/-- Settles O22: the unit of `send_eq`, with the escape forms of R72 written out. -/
theorem sendEmitsTheUnitOfThePayload : Obligations.SendEmitsTheUnitOfThePayload := fun _ s =>
  ⟨fun h => send_eq h s, fun h => send_fault h s⟩

/-! ## The escaped payload -/

/-- R72: the three classes of a payload byte and their escape forms. -/
theorem escapeOf_cases (c : Byte) :
    (c = endByte ∧ escapeOf c = [escByte, escEndByte]) ∨ (c = escByte ∧ escapeOf c = [escByte, escEscByte]) ∨
    (c ≠ endByte ∧ c ≠ escByte ∧ escapeOf c = [c]) := by
  unfold escapeOf
  by_cases hb : c = endByte
  · exact .inl ⟨hb, if_pos hb⟩
  · rw [if_neg hb]
    by_cases he : c = escByte
    · exact .inr (.inl ⟨he, if_pos he⟩)
    · exact .inr (.inr ⟨hb, he, if_neg he⟩)

theorem endByte_not_mem_escapeOf (c : Byte) : endByte ∉ escapeOf c := by
  obtain ⟨-, hf⟩ | ⟨-, hf⟩ | ⟨hb, -, hf⟩ := escapeOf_cases c
  · rw [hf]; decide
  · rw [hf]; decide
  · rw [hf, List.mem_singleton]; exact Ne.symm hb

theorem endByte_not_mem_esc (p : List Byte) : endByte ∉ esc p := fun h =>
  have ⟨c, _, hc⟩ := List.mem_flatMap.mp h
  endByte_not_mem_escapeOf c hc

/-- What may follow an escape marker in a payload region: the second byte of an escape pair (R72). -/
def BeginsWithCode (r : List Byte) : Prop := ∃ c r', r = c :: r' ∧ (c = escEndByte ∨ c = escEscByte)

/-- Every escape marker of `bs` opens an escape pair (R137). -/
def EscapesPaired (bs : List Byte) : Prop := ∀ l r, bs = l ++ escByte :: r → BeginsWithCode r

theorem EscapesPaired.nil : EscapesPaired [] := fun _ _ h => absurd h (by simp)

/-- A marker in `b :: bs` is `b` itself or one of `bs`. -/
theorem EscapesPaired.cons {b : Byte} {bs : List Byte} (hb : b = escByte → BeginsWithCode bs) (h : EscapesPaired bs) :
    EscapesPaired (b :: bs) := by
  intro l r hl
  cases l with
  | nil => cases hl; exact hb rfl
  | cons a l => exact h l r (List.cons.inj hl).2

theorem EscapesPaired.escapeOf_append {bs : List Byte} (h : EscapesPaired bs) (c : Byte) :
    EscapesPaired (escapeOf c ++ bs) := by
  obtain ⟨-, hf⟩ | ⟨-, hf⟩ | ⟨-, he, hf⟩ := escapeOf_cases c <;> rw [hf]
  · exact .cons (fun _ => ⟨escEndByte, bs, rfl, .inl rfl⟩) (.cons (fun hn => absurd hn (by decide)) h)
  · exact .cons (fun _ => ⟨escEscByte, bs, rfl, .inr rfl⟩) (.cons (fun hn => absurd hn (by decide)) h)
  · exact .cons (fun hn => absurd hn he) h

theorem escapesPaired_esc (p : List Byte) : EscapesPaired (esc p) := by
  induction p with
  | nil => exact .nil
  | cons c p ih => rw [esc_cons]; exact ih.escapeOf_append c

/-- R73: a byte that is no marker reads back as itself. -/
theorem unescape_literal {b : Byte} (hb : b ≠ endByte) (he : b ≠ escByte) (bs : List Byte) :
    unescape (b :: bs) = (unescape bs).map (b :: ·) := by
  cases bs with
  | nil => exact if_neg (not_or.mpr ⟨hb, he⟩)
  | cons c bs => rw [unescape, if_neg hb, if_neg he]

/-- R73: the escape form of a byte reads back as the byte. -/
theorem unescape_escapeOf_append (c : Byte) (bs : List Byte) :
    unescape (escapeOf c ++ bs) = (unescape bs).map (c :: ·) := by
  obtain ⟨rfl, hf⟩ | ⟨rfl, hf⟩ | ⟨hb, he, hf⟩ := escapeOf_cases c <;> rw [hf]
  · rfl
  · rfl
  · exact unescape_literal hb he bs

/-- R137: de-escaping recovers every payload; the converse of `eq_esc_of_unescape`. -/
theorem unescape_esc (p : List Byte) : unescape (esc p) = some p := by
  induction p with
  | nil => rfl
  | cons c p ih => rw [esc_cons, unescape_escapeOf_append, ih]; rfl

/-- Settles O24. -/
theorem escapedPayloadHoldsNoMarker : Obligations.EscapedPayloadHoldsNoMarker := fun p =>
  ⟨endByte_not_mem_esc p, escapesPaired_esc p, unescape_esc p⟩

/-! ## The operations that store nothing in a buffer -/

/-- `t` differs from `s` at most in `acc`, the frame's transient values, the control path, the calls and the bytes that wait
for the sink. -/
def KeepsBuffers (s t : State) : Prop :=
  t = { s with acc := t.acc, frameLen := t.frameLen, received := t.received, expected := t.expected, matched := t.matched,
               ctl := t.ctl, emitting := t.emitting, calls := t.calls }

/-- R131 to R136: an operation that emits writes nothing else. -/
theorem KeepsBuffers.of_emit {bs : List Byte} {s t : State} (h : (.next (emit bs s) : Result) = .next t) : KeepsBuffers s t := by
  cases h; rfl

/-- Settles O38: a send, like each of its steps, is an `emit`; the others write `acc`, the transient values or the call. -/
theorem nonStoringOperationsKeepBothBuffers : Obligations.NonStoringOperationsKeepBothBuffers := by
  intro i s t hi h
  have hkeeps : KeepsBuffers s t := by
    rcases hi with rfl | rfl | rfl | rfl | ⟨c, rfl⟩ | rfl | ⟨n, rfl⟩ | rfl | ⟨b, rfl⟩ | ⟨len, rfl⟩ | rfl | rfl
    · exact .of_emit h
    · exact .of_emit h
    · exact .of_emit h
    · exact .of_emit h
    · exact .of_emit h
    · exact .of_emit h
    · obtain ⟨-, rfl⟩ := send_inv h; exact .of_emit rfl
    · cases h; rfl
    · cases h; rfl
    · obtain ⟨-, -, rfl⟩ := split_inv h; rfl
    · obtain rfl := verify_inv h; rfl
    · obtain rfl := dispatch_inv h; rfl
  rw [hkeeps]
  exact ⟨fun _ => rfl, fun _ => rfl, rfl, rfl, rfl, rfl, rfl, rfl, rfl⟩

end Sys2Proof.Machine

/-! The checksum family: CRC.CLEAR and CRC.STEP (R150, R151), a run of them (R152, R153), the algebra of the table `T`
(R154), the zero test of a frame (R155), and the table's entries (R156, R157). -/

namespace Sys2Proof.Machine

open Config

/-! ## The two operations -/

/-- R151: an iteration of the model as the pseudocode has it, on bit 7 and `t[6:0] ++ 0b0`. -/
theorem crcBit_eq_pseudocode (t : Byte) :
    crcBit t = if t.getLsbD 7 then (t.extractLsb' 0 7 ++ 0#1) ^^^ 0x07#8 else t.extractLsb' 0 7 ++ 0#1 := by
  have hshift : t <<< 1 = t.extractLsb' 0 7 ++ 0#1 := BitVec.shiftLeft_eq_concat_of_lt (by decide)
  rw [crcBit, BitVec.msb_eq_getLsbD_last, hshift]

theorem crcBits_eq_iterate (k : Nat) (t : Byte) : crcBits k t = crcBit^[k] t := by
  induction k generalizing t with
  | zero => rfl
  | succ k ih => exact ih (crcBit t)

/-- Settles O25: an absorbed byte is eight iterations, and each is the pseudocode's. -/
theorem checksumOperationsUpdateTheAccumulator : Obligations.ChecksumOperationsUpdateTheAccumulator := by
  refine fun b s => ⟨rfl, ?_⟩
  rw [← funext crcBit_eq_pseudocode, ← crcBits_eq_iterate]
  rfl

/-! ## A run of CRC.STEP -/

/-- A run of CRC.STEP never stops, and is the fold of `stepAcc` (R152). -/
theorem foldl_crcStep (x : List Byte) (s : State) :
    x.foldl (fun o b => andThen o (exec (.crcStep b))) (.next s) = .next (x.foldl (fun t b => stepAcc b t) s) := by
  induction x generalizing s with
  | nil => rfl
  | cons b x ih => exact ih (stepAcc b s)

/-- Settles O26: CLEAR and the run of STEP are `runChecksum`. -/
theorem checksumIsAFunctionOfTheBytes : Obligations.ChecksumIsAFunctionOfTheBytes :=
  ⟨fun x s => (foldl_crcStep x (clearAcc s)).trans (congrArg Host.Outcome.next (runChecksum_eq x s)), rfl⟩

/-! ## Linearity and bijectivity of the table (R154) -/

/-- One iteration is linear: the shift is, and the polynomial is XORed in once for each operand
whose bit 7 is 1, so that two cancel. -/
theorem crcBit_xor (u v : Byte) : crcBit (u ^^^ v) = crcBit u ^^^ crcBit v := by
  simp only [crcBit, BitVec.msb_xor, BitVec.shiftLeft_xor_distrib]
  cases u.msb <;> cases v.msb
  · rfl
  · exact BitVec.xor_assoc ..
  · change (u <<< 1 ^^^ v <<< 1) ^^^ poly = (u <<< 1 ^^^ poly) ^^^ v <<< 1
    ac_rfl
  · calc u <<< 1 ^^^ v <<< 1
      _ = (u <<< 1 ^^^ v <<< 1) ^^^ (poly ^^^ poly) := by rw [BitVec.xor_self, BitVec.xor_zero]
      _ = (u <<< 1 ^^^ poly) ^^^ (v <<< 1 ^^^ poly) := by ac_rfl

theorem crcBits_xor (k : Nat) (u v : Byte) : crcBits k (u ^^^ v) = crcBits k u ^^^ crcBits k v := by
  induction k generalizing u v with
  | zero => rfl
  | succ k ih => simp only [crcBits, crcBit_xor, ih]

/-- The polynomial is odd, so bit 0 after an iteration tells the bit shifted out. -/
theorem crcBit_getLsbD_zero (t : Byte) : (crcBit t).getLsbD 0 = t.msb := by
  cases h : t.msb <;> simp [crcBit, h]

/-- An iteration loses no information: its kernel is zero. -/
theorem crcBit_eq_zero {t : Byte} (h : crcBit t = 0x00#8) : t = 0x00#8 := by
  have hmsb : t.msb = false := by rw [← crcBit_getLsbD_zero, h]; rfl
  have hshift : t <<< 1 = 0x00#8 := by simpa [crcBit, hmsb] using h
  have hlow : 2 * t.toNat < 2 ^ 8 := BitVec.msb_eq_false_iff_two_mul_lt.mp hmsb
  bv_omega

theorem crcBits_eq_zero {k : Nat} {t : Byte} (h : crcBits k t = 0x00#8) : t = 0x00#8 := by
  induction k generalizing t with
  | zero => exact h
  | succ k ih => exact crcBit_eq_zero (ih h)

theorem crc8_singleton (v : Byte) : crc8 [v] = crcBits 8 v := congrArg (crcBits 8) BitVec.zero_xor

theorem crc8_singleton_xor (u v : Byte) : crc8 [u ^^^ v] = crc8 [u] ^^^ crc8 [v] := by
  simp only [crc8_singleton, crcBits_xor]

theorem crc8_singleton_zero : crc8 [0x00#8] = 0x00#8 := by decide

/-- The table's one zero is `T[0]`. -/
theorem crc8_singleton_eq_zero_iff {v : Byte} : crc8 [v] = 0x00#8 ↔ v = 0x00#8 :=
  ⟨fun h => crcBits_eq_zero (crc8_singleton v ▸ h), fun h => h ▸ crc8_singleton_zero⟩

/-- R154: absorbing a byte looks up `acc XOR b`. -/
theorem crcAbsorb_eq_crc8 (acc b : Byte) : crcAbsorb acc b = crc8 [acc ^^^ b] := (crc8_singleton _).symm

/-- A linear map with kernel zero is injective. -/
theorem crc8_singleton_injective : Function.Injective fun v : Byte => crc8 [v] := by
  intro u v (h : crc8 [u] = crc8 [v])
  have hker : crc8 [u ^^^ v] = 0x00#8 := by rw [crc8_singleton_xor, h, BitVec.xor_self]
  exact BitVec.xor_eq_zero_iff.mp (crc8_singleton_eq_zero_iff.mp hker)

/-- Settles O27: on the finitely many bytes, injective is bijective. -/
theorem checksumTableIsLinearAndBijective : Obligations.ChecksumTableIsLinearAndBijective :=
  ⟨crcAbsorb_eq_crc8, crc8_singleton_xor, crc8_singleton_zero, Finite.injective_iff_bijective.mp crc8_singleton_injective⟩

/-! ## The zero test (R155) -/

/-- The last byte leaves zero exactly when it cancels the accumulator. -/
theorem crc8_append_singleton_eq_zero_iff (x : List Byte) (r : Byte) : crc8 (x ++ [r]) = 0x00#8 ↔ crc8 x = r := by
  have hlast : crc8 (x ++ [r]) = crc8 [crc8 x ^^^ r] := (crc8_append x [r]).trans (crcAbsorb_eq_crc8 _ r)
  rw [hlast, crc8_singleton_eq_zero_iff, BitVec.xor_eq_zero_iff]

/-- Settles O28: a frame in FB is its data followed by the byte received. -/
theorem checksumOfAFrameIsZeroExactlyWhenItMatches : Obligations.ChecksumOfAFrameIsZeroExactlyWhenItMatches :=
  ⟨fun x r => (crc8_append_singleton_eq_zero_iff x r).trans eq_comm,
   fun s n => by rw [fbRange_succ, crc8_append_singleton_eq_zero_iff]⟩

/-! ## The entries of the table (R156, R157) -/

/-- Settles O29: fixed values, each computed. -/
theorem checksumTableEntries : Obligations.ChecksumTableEntries := by
  unfold Obligations.ChecksumTableEntries
  decide +kernel

end Sys2Proof.Machine

/-! The processor family: the operations of 43_processor.md (R170 to R177), and how a delivered frame is answered by each of
the three units (R178). -/

namespace Sys2Proof.Machine

open Config

/-! ## Split, verify and the call -/

/-- Settles O31: within FB the split reads its last byte, and the length it stores fixes the view. -/
theorem splitReadsTheLastByteAsChecksum : Obligations.SplitReadsTheLastByteAsChecksum := fun _ _ hmin hcap =>
  ⟨_, if_pos ⟨hmin, hcap⟩, rfl, rfl⟩

/-- R172 with `data` inside FB. -/
theorem verify_eq {s : State} (h : s.frameLen - 1 ≤ capFB) :
    execProcVerify s = .next { s with acc := crc8 (frameData s), expected := crc8 (frameData s),
                                      matched := matchFlag (crc8 (frameData s)) s.received } := by
  simp only [execProcVerify, if_pos h, runChecksum_eq]

/-- Settles O32: `verify_eq`, with the comparison as a decision. -/
theorem verifyComparesTheChecksums : Obligations.VerifyComparesTheChecksums := fun _ h =>
  verify_eq (Nat.sub_le_of_le_add h)

/-- The duties on what a reply writes: RB below 255, FB nowhere (R55). -/
theorem Reply.writesInContract_iff (r : Reply) :
    r.writesInContract = true ↔ (∀ c ∈ r.writes, c.1 < respCap) ∧ r.frameWrites = [] := by
  simp [Reply.writesInContract]

/-- A dutiful reply that has come is taken in one step (R174). -/
theorem step_accepts {s : State} {p : Pending} {k : List Pending} {r : Reply} {more : List (Option Reply)}
    (hr : s.resets = []) (hb : s.busy = true) (he : s.emitting = []) (hk : s.ctl = .awaitReply :: p :: k)
    (hn : s.replies = some r :: more) (hw : r.writesInContract = true) :
    step s = .next (acceptReply r { s with replies := more, ctl := p :: k }) := by
  have hgo : receiveReply (p :: k) s = .next (acceptReply r { s with replies := more, ctl := p :: k }) := by
    simp only [receiveReply, hn, if_pos hw]
  rw [step_of_no_reset hr, advance_busy hb, resume_awaits he hk]
  exact finish_waits hgo (by rw [acceptReply_eq]; exact List.cons_ne_nil _ _)

/-- Settles O34: the call, and the step in which its reply is taken. -/
theorem dispatchCallsOnceAndTakesTheReply : Obligations.DispatchCallsOnceAndTakesTheReply := by
  refine ⟨fun s hl => if_pos (Nat.sub_le_of_le_add hl), fun s p k r more hr hb he hk hn hwrites hframe => ?_⟩
  rw [step_accepts hr hb he hk hn (r.writesInContract_iff.mpr ⟨hwrites, hframe⟩), acceptReply_eq, applyWrites_rb]

/-! ## The error frames -/

/-- R74 and R76: the unit of the error payload of code 0x01. -/
theorem unit_errChecksum :
    unit (errorPayload .checksumMismatch) = [0xDB#8, 0xDE#8, 0xC0#8, 0xFF#8, 0x01#8, 0xD0#8, 0xC0#8] := by decide +kernel

/-- R74 and R76: the unit of the error payload of code 0x02. -/
theorem unit_errDispatch :
    unit (errorPayload .dispatchFailure) = [0xDB#8, 0xDE#8, 0xC0#8, 0xFF#8, 0x02#8, 0xD9#8, 0xC0#8] := by decide +kernel

/-- R173. -/
theorem errChecksum_eq (s : State) :
    execProcErrChecksum s = .next { s with
      rb := ((s.rb.write 0 0xFF#8).write 1 0x01#8).write 2 0xD0#8, acc := 0xD0#8,
      emitting := s.emitting ++ [0xDB#8, 0xDE#8, 0xC0#8, 0xFF#8, 0x01#8, 0xD0#8, 0xC0#8] } := by
  rw [← unit_errChecksum, ← crc8_errChecksum]
  exact sendError_eq .checksumMismatch s

/-- R176. -/
theorem errDispatch_eq (s : State) :
    execProcErrDispatch s = .next { s with
      rb := ((s.rb.write 0 0xFF#8).write 1 0x02#8).write 2 0xD9#8, acc := 0xD9#8,
      emitting := s.emitting ++ [0xDB#8, 0xDE#8, 0xC0#8, 0xFF#8, 0x02#8, 0xD9#8, 0xC0#8] } := by
  rw [← unit_errDispatch, ← crc8_errDispatch]
  exact sendError_eq .dispatchFailure s

/-- Settles O33: the two operations are PROC.SEND_ERROR of their code. -/
theorem errorFramesAreTheTwoFixedUnits : Obligations.ErrorFramesAreTheTwoFixedUnits := fun s =>
  ⟨errChecksum_eq s, errDispatch_eq s, rfl, rfl⟩

/-! ## The response -/

/-- Settles O35: the two sides of the test on `response_len`. -/
theorem respondAppendsTheChecksumAndSends : Obligations.RespondAppendsTheChecksumAndSends := fun _ =>
  ⟨respond_eq, respond_fault⟩

/-! ## The frame -/

section
variable {len : Nat} {s : State}

/-- `verified`, by the verdict (R172). -/
theorem verified_eq {v : Bool} (h : matchFlag (crc8 (s.fbRange (len - 1))) (s.fbByte (len - 1)) = v) :
    verified len s = { s with
      frameLen := len, received := s.fbByte (len - 1), acc := crc8 (s.fbRange (len - 1)),
      expected := crc8 (s.fbRange (len - 1)), matched := v } := h ▸ rfl

/-- R170, with a wrong checksum: the error unit 0x01. -/
theorem frame_rejects (hmin : minFrame ≤ len) (hcap : len ≤ capFB)
    (h : crc8 (s.fbRange (len - 1)) ≠ s.fbByte (len - 1)) :
    execProcFrame len s = execProcErrChecksum (verified len s) := by
  rw [frame_eq hmin hcap, verified_eq (decide_eq_false h)]
  rfl

/-- R170 outside a frame's lengths (D28). -/
theorem frame_fault (h : len < minFrame ∨ capFB < len) : execProcFrame len s = .fault .frameLengthOutOfRange := if_pos h

end

/-- After the dispatcher's return a step is the operation that `status` selects. -/
theorem step_branches {s : State} {k : List Pending} (hr : s.resets = []) (hb : s.busy = true) (he : s.emitting = [])
    (hk : s.ctl = .branchOnStatus :: k) : step s = finish (exec (statusOp s.status) { s with ctl := k }) := by
  rw [step_of_no_reset hr, advance_busy hb, resume_branches he hk]

/-- Settles O36: the two verdicts, the choice on `status`, and the lengths of no frame. -/
theorem frameOperationFollowsTheVerdict : Obligations.FrameOperationFollowsTheVerdict := by
  refine ⟨fun len s hmin hcap h => ?_, fun len s hmin hcap h => ?_, fun s p k hr hb he hk => ?_,
    fun len s h => frame_fault h⟩
  · refine (frame_rejects hmin hcap h).trans ?_
    rw [errChecksum_eq, verified_eq (decide_eq_false h)]
  · refine (frame_eq hmin hcap s).trans ?_
    rw [verified_eq (decide_eq_true h)]
    rfl
  · rw [step_branches hr hb he hk]
    exact ⟨fun hs => by rw [hs]; rfl, fun hs => by rw [hs]; rfl⟩

/-! ## The answers to a delivered frame -/

/-- The boundary marker after a frame with a wrong checksum hands the error unit 0x01 to `Emit` (R170, R173). -/
theorem Ready.step_rejects {s : State} {n : Nat} {rest : List (Option Byte)} (h : Ready s) (hd : s.dstate = .receiving)
    (hc : s.cursor = n) (hmin : minFrame ≤ n) (hcap : n ≤ capFB) (hi : s.input = some endByte :: rest)
    (hcrc : crc8 (s.fbRange (n - 1)) ≠ s.fbByte (n - 1)) :
    step s = .next { verified n s with
      input := rest, busy := true, ctl := [.closeFrame],
      rb := ((s.rb.write 0 0xFF#8).write 1 0x01#8).write 2 0xD0#8, acc := 0xD0#8,
      emitting := s.emitting ++ [0xDB#8, 0xDE#8, 0xC0#8, 0xFF#8, 0x01#8, 0xD0#8, 0xC0#8] } := by
  have hframe := frame_rejects (s := { s with input := rest, busy := true, ctl := [.closeFrame] }) hmin hcap hcrc
  rw [h.step_delivers hd hc hmin hi]
  exact finish_waits (hframe.trans (errChecksum_eq _)) (List.cons_ne_nil _ _)

/-- Settles O55: the closing marker hands the error unit to `Emit`, and the sink takes it. -/
theorem badChecksumIsAnsweredByTheErrorUnit : Obligations.BadChecksumIsAnsweredByTheErrorUnit := by
  intro s rest hinv hw hb hd hmin hi hcrc
  have h := hinv.ready hw.1 hb
  have hrejected := Reaches.of_step (h.step_rejects hd rfl hmin hinv.cursor_le hi hcrc)
  obtain ⟨sk, hclosed⟩ := hrejected.then_closed hw rfl rfl
  exact ⟨_, hclosed, rfl, rfl, rfl, rfl, by rw [h.emitting]; rfl, rfl, rfl, rfl⟩

/-- After a reported failure the error unit 0x02 goes out (R170, R176). -/
theorem step_reports_failure {s : State} {p : Pending} {k : List Pending} (hr : s.resets = []) (hb : s.busy = true)
    (he : s.emitting = []) (hk : s.ctl = .branchOnStatus :: p :: k) (hs : s.status = .failure) :
    step s = .next { s with
      ctl := p :: k, rb := ((s.rb.write 0 0xFF#8).write 1 0x02#8).write 2 0xD9#8, acc := 0xD9#8,
      emitting := s.emitting ++ [0xDB#8, 0xDE#8, 0xC0#8, 0xFF#8, 0x02#8, 0xD9#8, 0xC0#8] } := by
  rw [step_branches hr hb he hk, hs]
  exact finish_waits (errDispatch_eq _) (List.cons_ne_nil _ _)

/-- With a dispatcher that has failed: the error unit 0x02 leaves, and the core is ready in `Idle`. -/
theorem Reaches.then_failure_reported {s t : State} (h : Reaches s t) (hw : Willing t) (hb : t.busy = true)
    (he : t.emitting = []) (hk : t.ctl = [.branchOnStatus, .closeFrame]) (hs : t.status = .failure) :
    ∃ u, Reaches s u ∧ u.busy = false ∧ u.dstate = .idle ∧ u.cursor = 0 ∧ u.input = t.input ∧
      u.out = t.out ++ [0xDB#8, 0xDE#8, 0xC0#8, 0xFF#8, 0x02#8, 0xD9#8, 0xC0#8] ∧ u.calls = t.calls ∧
      u.replies = t.replies := by
  have hsent := h.trans (.of_step (step_reports_failure hw.1 hb he hk hs))
  obtain ⟨sk, hclosed⟩ := hsent.then_closed hw hb rfl
  exact ⟨_, hclosed, rfl, rfl, rfl, rfl, by rw [he]; rfl, rfl, rfl⟩

/-- Settles O56: the call, its return whenever it comes, and the error unit. -/
theorem dispatchFailureIsAnsweredByTheErrorUnit : Obligations.DispatchFailureIsAnsweredByTheErrorUnit := by
  intro s rest k r more hinv hw hb hd hmin hi hcrc hn hwr hs
  have h := hinv.ready hw.1 hb
  have hcalled : Reaches s (awaiting s.cursor rest s) := .of_step (h.step_dispatches hd rfl hmin hinv.cursor_le hi hcrc)
  have hreplied := hcalled.trans (reaches_replied h.resets rfl h.emitting rfl hn hwr)
  rw [acceptReply_eq] at hreplied
  exact hreplied.then_failure_reported hw rfl h.emitting rfl hs

/-- Settles O57: `Ready.reaches_response`, of a core with the invariant. -/
theorem successIsAnsweredByTheResponseUnit : Obligations.SuccessIsAnsweredByTheResponseUnit := by
  intro s rest k r more hinv hw hb hd hmin hi hcrc hn hwr hs hl
  exact (hinv.ready hw.1 hb).reaches_response hw.2 hd rfl hmin hinv.cursor_le hi hcrc hn hwr hs hl

end Sys2Proof.Machine

/-! The exceptions family: the one fault that can stop a run (R203, R210), the stuck states (R211), the responses that look like
errors (R212), and the end of every Feed (R243). -/

namespace Sys2Proof.Machine

open Config

/-! ## Only the dispatcher can stop the core -/

/-- What no error but the dispatcher's breach has stopped: a next state, or the fault of R210's first item. -/
inductive NextOrBreach : Result → Prop where
  | next (t : State) : NextOrBreach (.next t)
  | breach : NextOrBreach (.fault .dispatchContractViolation)

theorem NextOrBreach.finish {o : Result} (h : NextOrBreach o) : NextOrBreach (finish o) := by
  cases h with
  | next t => exact .next (endFeed t)
  | breach => exact .breach

/-- With the cursor inside FB every byte is answered by a next state: an append has room, and a delivered length is one PROC.FRAME
accepts (R8, D28). -/
theorem feed_answers (b : Byte) (rest : List (Option Byte)) {s : State} (hc : s.cursor ≤ capFB) :
    ∃ u, feed b (takeInput rest s) = .next u := by
  obtain ⟨f, hf, hfeed⟩ := takesByte_effect b rest s
  rw [hfeed]
  cases hf with
  | ignores _ => exact ⟨_, rfl⟩
  | drops _ _ => exact ⟨_, rfl⟩
  | escapes _ _ => exact ⟨_, rfl⟩
  | stores _ _ _ => exact ⟨_, rfl⟩
  | delivers _ _ hmin => exact frame_answers hmin hc _

/-- PROC.RESPOND faults for a response that is too long; the error unit is always sent. -/
theorem statusOp_outcome (st : Status) (s : State) : NextOrBreach (exec (statusOp st) s) := by
  cases st with
  | success =>
    show NextOrBreach (execProcRespond s)
    rcases le_or_gt s.responseLen respCap with hl | hl
    · rw [respond_eq hl]; exact .next _
    · rw [respond_fault hl]; exact .breach
  | failure =>
    show NextOrBreach (execProcErrDispatch s)
    rw [errDispatch_eq]; exact .next _

theorem receiveReply_outcome (k : List Pending) (s : State) : NextOrBreach (receiveReply k s) := by
  unfold receiveReply
  split
  · exact .next _
  · exact .next _
  · split
    · exact .next _
    · exact .breach

theorem resume_outcome (s : State) : NextOrBreach (resume s) := by
  unfold resume
  split
  · exact .finish (.next _)
  · split
    · exact .finish (.next _)
    · exact .finish (receiveReply_outcome _ s)
    · exact .finish (statusOp_outcome s.status _)
    · exact .finish (.next _)

theorem poll_outcome {s : State} (hc : s.cursor ≤ capFB) : NextOrBreach (poll s) := by
  unfold poll
  split
  · exact .next _
  · exact .next _
  next b rest _ =>
    obtain ⟨u, hu⟩ := feed_answers b rest hc
    rw [hu]
    exact .finish (.next u)

theorem advance_outcome {s : State} (hc : s.cursor ≤ capFB) : NextOrBreach (advance s) := by
  unfold advance
  split
  · exact resume_outcome s
  · exact poll_outcome hc

/-- One step of a core whose cursor is inside FB; a reset always answers a next state. -/
theorem step_outcome {s : State} (hc : s.cursor ≤ capFB) : NextOrBreach (step s) := by
  unfold step cycle
  split
  · exact advance_outcome hc
  · exact advance_outcome hc
  · exact .next _
  · exact .next _

/-- Settles O46: every step answers a next state with the invariant, or the fault. -/
theorem onlyTheDispatcherCanStopTheCore : Obligations.OnlyTheDispatcherCanStopTheCore := by
  intro s h n
  induction n generalizing s with
  | zero => exact .inl ⟨s, rfl, h⟩
  | succ n ih =>
    rw [runSteps_succ]
    have hout := step_outcome h.cursor_le
    generalize hs : step s = o at hout
    cases hout with
    | next t => exact ih t (h.of_step hs)
    | breach => exact .inr rfl

/-! ## Responses that look like errors -/

/-- A response of the two bytes of an error payload, with its checksum appended, is the error payload (R76, R175). -/
theorem respond_reserved {code : ErrorCode} {s t u : State} (hlen : s.responseLen = 2) (h0 : s.rbByte 0 = errPrefix)
    (h1 : s.rbByte 1 = code.toByte) (hu : execProcSendError code s = .next u) (ht : execProcRespond s = .next t) :
    t.emitting = u.emitting := by
  have hpayload : s.rbRange s.responseLen = [errPrefix, code.toByte] := by
    rw [hlen, ← h0, ← h1]; rfl
  rw [respond_eq (hlen ▸ by decide), hpayload] at ht
  rw [sendError_eq] at hu
  cases ht
  cases hu
  rfl

/-- Settles O39: `respond_reserved`, for each of the two codes. -/
theorem reservedResponsesLookLikeErrors : Obligations.ReservedResponsesLookLikeErrors := by
  intro s t u hlen h0 herr ht
  rcases herr with ⟨h1, hu⟩ | ⟨h1, hu⟩
  · exact respond_reserved (code := .checksumMismatch) hlen h0 h1 hu ht
  · exact respond_reserved (code := .dispatchFailure) hlen h0 h1 hu ht

/-! ## The steps of an outstanding call -/

section
variable {s : State} {k : List Pending} {r : Reply} {more : List (Option Reply)}

/-- While the dispatcher call is outstanding a step is one look at whether it has returned. -/
theorem step_awaits (hr : s.resets = []) (hb : s.busy = true) (he : s.emitting = []) (hk : s.ctl = .awaitReply :: k) :
    step s = finish (receiveReply k s) := by
  rw [step_of_no_reset hr, advance_busy hb, resume_awaits he hk]

/-- It never returns (R211). -/
theorem step_awaits_never (hr : s.resets = []) (hb : s.busy = true) (he : s.emitting = []) (hk : s.ctl = .awaitReply :: k)
    (hn : s.replies = []) : step s = .next s := by
  rw [step_awaits hr hb he hk]
  exact finish_waits (by simp only [receiveReply, hn]) (by rw [hk]; exact List.cons_ne_nil _ _)

/-- It has not returned yet. -/
theorem step_awaits_longer (hr : s.resets = []) (hb : s.busy = true) (he : s.emitting = []) (hk : s.ctl = .awaitReply :: k)
    (hn : s.replies = none :: more) : step s = .next { s with replies := more } := by
  rw [step_awaits hr hb he hk]
  exact finish_waits (by simp only [receiveReply, hn]) (by rw [hk]; exact List.cons_ne_nil _ _)

/-- It returns after a forbidden write (R55, D6). -/
theorem step_breach (hr : s.resets = []) (hb : s.busy = true) (he : s.emitting = []) (hk : s.ctl = .awaitReply :: k)
    (hn : s.replies = some r :: more) (hw : ¬r.writesInContract = true) : step s = .fault .dispatchContractViolation := by
  have hgo : receiveReply k s = .fault .dispatchContractViolation := by simp only [receiveReply, hn, if_neg hw, raise]
  rw [step_awaits hr hb he hk, hgo, finish_fault]

/-- It succeeded with a response that is too long (R175, D6). -/
theorem step_overlong (hr : s.resets = []) (hb : s.busy = true) (he : s.emitting = []) (hk : s.ctl = .branchOnStatus :: k)
    (hs : s.status = .success) (hl : respCap < s.responseLen) : step s = .fault .dispatchContractViolation := by
  have hop : statusOp s.status = .procRespond := by rw [hs]; rfl
  have hgo : exec .procRespond { s with ctl := k } = .fault .dispatchContractViolation :=
    respond_fault (s := { s with ctl := k }) hl
  rw [step_branches hr hb he hk, hop, hgo, finish_fault]

end

/-- Settles O45: a forbidden write breaks `writesInContract`, and a response above 255 is refused by PROC.RESPOND. -/
theorem dispatcherBreachIsAFault : Obligations.DispatcherBreachIsAFault := by
  refine ⟨fun s k r more hr hb he hk hn hbad => step_breach hr hb he hk hn fun hw => ?_,
    fun s k hr hb he hk hs hl => step_overlong hr hb he hk hs hl⟩
  obtain ⟨hwrites, hframe⟩ := r.writesInContract_iff.mp hw
  rcases hbad with ⟨c, hc, hge⟩ | hfb
  · exact absurd (hwrites c hc) (Nat.not_lt.mpr hge)
  · exact hfb hframe

/-! ## Stuck states -/

/-- A sink that never takes another byte (R211). -/
theorem step_blocked {s : State} {b : Byte} {bs : List Byte} (hr : s.resets = []) (hb : s.busy = true)
    (he : s.emitting = b :: bs) (hs : s.sink = []) (ho : s.sinkOpen = false) : step s = .next s := by
  have hoffer : offerByte b bs s = s := by simp [offerByte, hs, ho]
  have hleft : s.emitting ≠ [] := by rw [he]; exact List.cons_ne_nil _ _
  rw [step_of_no_reset hr, advance_busy hb]
  simp only [resume, he, hoffer, finish_next, endFeed_busy (.inr hleft)]

/-- A step that changes nothing changes nothing however often it is taken. -/
theorem runSteps_of_step_eq_self {s : State} (h : step s = .next s) (n : Nat) : runSteps n s = .next s := by
  induction n with
  | zero => rfl
  | succ n ih => rw [runSteps_succ, h]; exact ih

/-- Settles O44: in either stuck state one step answers the same state. -/
theorem stuckStatesDoNotMove : Obligations.StuckStatesDoNotMove :=
  ⟨fun _ _ n hr hb he hk hn => runSteps_of_step_eq_self (step_awaits_never hr hb he hk hn) n,
    fun _ _ _ n hr hb he hs ho => runSteps_of_step_eq_self (step_blocked hr hb he hs ho) n⟩

/-! ## Every Feed ends -/

/-- From here the core gets ready in `Idle` with the input untouched, or the dispatcher's breach stops it (R203, R243). -/
def FeedEnds (s : State) : Prop :=
  (∃ t, Reaches s t ∧ t.busy = false ∧ t.dstate = .idle ∧ t.cursor = 0 ∧ t.input = s.input) ∨
  (∃ n, runSteps n s = .fault .dispatchContractViolation)

theorem FeedEnds.of_fault {s : State} (h : step s = .fault .dispatchContractViolation) : FeedEnds s :=
  .inr ⟨1, (runSteps_one s).trans h⟩

/-- A Feed that ends from a later state with the same input ends. -/
theorem FeedEnds.of_reaches {s t : State} (h : Reaches s t) (hi : t.input = s.input) (ht : FeedEnds t) : FeedEnds s := by
  rcases ht with ⟨u, hu, hbusy, hidle, hcur, hin⟩ | ⟨n, hn⟩
  · exact .inl ⟨u, h.trans hu, hbusy, hidle, hcur, hin.trans hi⟩
  · obtain ⟨m, hm⟩ := h
    exact .inr ⟨m + n, by rw [runSteps_add, hm]; exact hn⟩

/-- The unit is being taken: the sink takes the rest of it. -/
theorem FeedEnds.of_emitting {s : State} (hw : Willing s) (hb : s.busy = true) (hk : s.ctl = [.closeFrame]) : FeedEnds s := by
  obtain ⟨sk, h⟩ := (Reaches.refl s).then_closed hw hb hk
  exact .inl ⟨_, h, rfl, rfl, rfl, rfl⟩

/-- The dispatcher has returned: either unit is sent, but for a response that is too long. -/
theorem FeedEnds.of_returned {s : State} (hw : Willing s) (hb : s.busy = true) (he : s.emitting = [])
    (hk : s.ctl = [.branchOnStatus, .closeFrame]) : FeedEnds s := by
  cases hs : s.status with
  | success =>
    rcases le_or_gt s.responseLen respCap with hl | hl
    · obtain ⟨u, hu, hbusy, hidle, hcur, hin, -⟩ := (Reaches.refl s).then_responded hw hb he hk hs hl
      exact .inl ⟨u, hu, hbusy, hidle, hcur, hin⟩
    · exact .of_fault (step_overlong hw.1 hb he hk hs hl)
  | failure =>
    obtain ⟨u, hu, hbusy, hidle, hcur, hin, -⟩ := (Reaches.refl s).then_failure_reported hw hb he hk hs
    exact .inl ⟨u, hu, hbusy, hidle, hcur, hin⟩

/-- The steps in which the dispatcher has not returned pass. -/
theorem reaches_return {s : State} {k : List Pending} {n : Nat} {r : Reply} {more : List (Option Reply)} (hr : s.resets = [])
    (hb : s.busy = true) (he : s.emitting = []) (hk : s.ctl = .awaitReply :: k) (hn : NextReply s n r more) :
    Reaches s { s with replies := some r :: more } := by
  unfold NextReply at hn
  induction n generalizing s with
  | zero =>
    rw [← show s.replies = some r :: more from hn]
    exact .refl s
  | succ n ih => exact .step_then (step_awaits_longer hr hb he hk hn) (ih hr hb he hk rfl)

/-- The call is outstanding: it returns, within the dispatcher's duties or not. -/
theorem FeedEnds.of_awaiting {s : State} {n : Nat} {r : Reply} {more : List (Option Reply)} (hw : Willing s)
    (hb : s.busy = true) (he : s.emitting = []) (hk : s.ctl = [.awaitReply, .branchOnStatus, .closeFrame])
    (hn : NextReply s n r more) : FeedEnds s := by
  refine .of_reaches (reaches_return hw.1 hb he hk hn) rfl ?_
  by_cases hduty : r.writesInContract = true
  · have hstep := step_accepts (s := { s with replies := some r :: more }) hw.1 hb he hk rfl hduty
    rw [acceptReply_eq] at hstep
    exact .of_reaches (.of_step hstep) rfl (.of_returned hw hb he rfl)
  · exact .of_fault (step_breach hw.1 hb he hk rfl hduty)

/-- Settles O59: a busy core has one of the three shapes of a Feed in progress, and from each the Feed ends. -/
theorem busyCoreBecomesReadyAgain : Obligations.BusyCoreBecomesReadyAgain := by
  intro s h hw hb hreply
  show FeedEnds s
  obtain ⟨hne, -⟩ := h.delivering hb
  rcases hk : s.ctl with _ | ⟨_ | _ | _, k⟩
  case nil => exact absurd hk hne
  case cons.awaitReply =>
    obtain rfl := ctlShape_awaitReply (hk ▸ h.shape)
    obtain ⟨n, r, more, hn⟩ := hreply (by simp [hk])
    exact .of_awaiting hw hb (h.waiting (by simp [hk])).2 hk hn
  case cons.branchOnStatus =>
    obtain rfl := ctlShape_branchOnStatus (hk ▸ h.shape)
    exact .of_returned hw hb (h.waiting (by simp [hk])).2 hk
  case cons.closeFrame =>
    obtain rfl := ctlShape_closeFrame (hk ▸ h.shape)
    exact .of_emitting hw hb hk

end Sys2Proof.Machine

/-! The reset and hazards family: a reset due before a step or just after a byte is taken (R230), and the unit that a core out
of phase loses (R240). -/

namespace Sys2Proof.Machine

open Config

/-! ## Reset at any time -/

/-- R230: a reset due before the step. -/
theorem step_of_reset {s : State} {more : List ResetMove} (h : s.resets = .reset :: more) :
    step s = .next (resetCore { s with resets := more }) := by
  simp only [step, cycle, h]

/-- R230, D21: a reset just after the core took a byte. -/
theorem step_of_resetAfterTake {s : State} {more : List ResetMove} {b : Byte} {rest : List (Option Byte)}
    (h : s.resets = .resetAfterTake :: more) (hb : s.busy = false) (hi : s.input = some b :: rest) :
    step s = .next (resetCore { s with resets := more, input := rest }) := by
  simp [step, cycle, h, resetTaking, hb, hi]

/-- R31: a reset core is ready in `Idle` with nothing of a Feed left; what the environment has seen and what it still offers
stay. -/
theorem resetCore_values (u : State) :
    (resetCore u).dstate = .idle ∧ (resetCore u).cursor = 0 ∧ (resetCore u).acc = 0x00#8 ∧ (resetCore u).busy = false ∧
      (resetCore u).emitting = [] ∧ (resetCore u).ctl = [] ∧ (resetCore u).out = u.out ∧ (resetCore u).calls = u.calls ∧
      (resetCore u).input = u.input ∧ (resetCore u).epoch ≠ u.epoch ∧
      (∀ i, (resetCore u).fbByte i = unspecifiedByte (resetCore u).epoch .frame i) ∧
      (∀ i, (resetCore u).rbByte i = unspecifiedByte (resetCore u).epoch .response i) :=
  ⟨rfl, rfl, rfl, rfl, rfl, rfl, rfl, rfl, rfl, Nat.succ_ne_self _, fun _ => rfl, fun _ => rfl⟩

/-- Settles O4: both steps go to `resetCore` of the state at the moment of the reset. -/
theorem resetAtAnyTimeAbandonsTheFeed : Obligations.ResetAtAnyTimeAbandonsTheFeed := fun _ _ =>
  ⟨fun h => ⟨_, step_of_reset h, resetCore_values _⟩,
    fun _ _ h hb hi => ⟨_, step_of_resetAfterTake h hb hi, resetCore_values _⟩⟩

/-! ## A unit fed to a core out of phase -/

section
variable {s : State} {rest : List (Option Byte)}

/-- A byte in `Escaped` that is no escape code (R109). -/
theorem Ready.step_violated {b : Byte} (h : Ready s) (hd : s.dstate = .escaped) (he : b ≠ escEndByte) (hs : b ≠ escEscByte)
    (hi : s.input = some b :: rest) : step s = .next { s with input := rest, dstate := .receiving, cursor := 0 } :=
  h.step_exec (op := .escOther b) (d := .receiving) (c := 0) (m := s.fb) hi
    (by simp only [hd, decodeInput, if_neg he, if_neg hs]) rfl

/-- R240: the resync prefix `DB DE` violates the escape rule, at `DE` in `Receiving` and at `DB` in `Escaped`. What is left in FB
is at most the `DE`, less than a frame. -/
theorem Ready.run_resync_lost (h : Ready s) (hd : s.dstate ≠ .idle) (hi : s.input = some escByte :: some clearByte :: rest) :
    ∃ c m, c < minFrame ∧ runSteps 2 s = .next { s with input := rest, dstate := .receiving, cursor := c, fb := m } := by
  rw [runSteps_succ]
  cases hs : s.dstate with
  | idle => exact absurd hs hd
  | receiving =>
    refine ⟨0, s.fb, by decide, ?_⟩
    rw [h.step_escaped hs hi, andThen_next, runSteps_one]
    exact (h.moved _ .escaped s.cursor s.fb).step_violated rfl (by decide) (by decide) rfl
  | escaped =>
    refine ⟨1, s.fb.write 0 clearByte, by decide, ?_⟩
    rw [h.step_violated hs (by decide) (by decide) hi, andThen_next, runSteps_one]
    exact (h.moved _ .receiving 0 s.fb).step_stored rfl (by decide) (by decide) (show 0 < capFB by decide) rfl

/-- R240: after the prefix the opening marker drops what is in FB, the core in `Idle` ignores the escaped payload, which holds
no boundary marker, and the closing marker opens a frame. -/
theorem Ready.run_unit_lost (h : Ready s) (hd : s.dstate ≠ .idle) (p : List Byte) (hi : s.input = (unit p).map some ++ rest) :
    ∃ m, runSteps (unit p).length s = .next { s with input := rest, dstate := .receiving, cursor := 0, fb := m } := by
  have hlen : (unit p).length = 2 + (1 + ((esc p).length + 1)) := by
    simp only [unit, List.length_append, List.length_cons, List.length_nil]; omega
  have hin : s.input = some escByte :: some clearByte :: some endByte :: ((esc p).map some ++ some endByte :: rest) := by
    rw [hi]; simp [unit]
  obtain ⟨c, m, hc, hresync⟩ := h.run_resync_lost hd hin
  rw [hlen]
  refine ⟨m, runSteps_trans hresync ?_⟩
  refine runSteps_trans ((runSteps_one _).trans ((h.moved _ .receiving c m).step_dropped rfl hc rfl)) ?_
  refine runSteps_trans (bytesBeforeABoundaryAreLost (esc p) _ (some endByte :: rest) h.resets h.idle h.ctl h.emitting rfl
    (endByte_not_mem_esc p) rfl) ?_
  exact (runSteps_one _).trans ((h.moved _ .idle 0 m).step_opened rfl rfl)

end

/-- Settles O54. -/
theorem outOfPhaseCoreLosesEveryUnit : Obligations.OutOfPhaseCoreLosesEveryUnit := by
  intro p s rest hinv hr hb hd hi
  obtain ⟨m, hrun⟩ := (hinv.ready hr hb).run_unit_lost hd p hi
  exact ⟨_, hrun, hb, rfl, rfl, rfl, rfl, rfl, rfl, rfl⟩

end Sys2Proof.Machine
